-- ==== Sys2Proof/Word.lean ====
section
/-! DEFINITION. The word types of the LQ-318 and their plainest arithmetic. -/

namespace Sys2Proof

/-- An octet (00_scope.md, "Numbers"): a register of the window, a frame octet, a payload octet. -/
abbrev Octet := BitVec 8

/-- A 16-bit quantity: update count, epoch value of a copy, epoch period. -/
abbrev Word16 := BitVec 16

/-- A 32-bit quantity: the epoch count. -/
abbrev Word32 := BitVec 32

/-- An item type: bits 6 to 0 of a type octet (R199), compared bit by bit under a mask (R61). -/
abbrev ItemType := BitVec 7

/-- A register window address: bits 6 to 0 of an SPI address octet (R188). -/
abbrev Addr := BitVec 7

/-- A counter that stops at its largest value (00_scope.md, "Counters"). -/
def satInc (top n : Nat) : Nat := min top (n + 1)

/-- A counter that stops at its largest value, counting `k` occurrences. -/
def satAdd (top n k : Nat) : Nat := min top (n + k)

/-- The octet that shows a small number. -/
def octetOf (n : Nat) : Octet := BitVec.ofNat 8 n

/-- Low octet of a 16-bit quantity; multi-octet quantities are stored low octet first (12, opening). -/
def lowOctet (w : Word16) : Octet := w.truncate 8

/-- High octet of a 16-bit quantity. -/
def highOctet (w : Word16) : Octet := (w >>> 8).truncate 8

/-- A yes/no field as the octet that codes it (R196). -/
def yesNo (b : Bool) : Octet := if b then 1 else 0

/-- The octet whose bit `n` is `b` and whose other bits are 0, for flag octets (R197). -/
def flagBit (n : Nat) (b : Bool) : Octet := if b then BitVec.ofNat 8 (2 ^ n) else 0

end Sys2Proof
end

