-- ==== Sys2Proof/Config.lean ====
section
/-! DEFINITION. What the spec fixes for the whole part as numbers, and the one free value of the model. -/

namespace Sys2Proof.Config

/-- Number of records of the capture table (R1). -/
def recordCount : Nat := 48

/-- Number of node entries (R115). -/
def nodeCount : Nat := 32

/-- Number of filters (R58). -/
def filterCount : Nat := 16

/-- Capacity of the hold list (R48). -/
def holdCapacity : Nat := 4

/-- Number of slots of the request pool (R136). -/
def poolSlots : Nat := 16

/-- Where a 16-bit saturating counter stops (R25, R79). -/
def count16Max : Nat := 65535

/-- Where an 8-bit saturating count stops (R13, R52, R128). -/
def count8Max : Nat := 255

/-- Where the silence counter stops (R82). -/
def silenceMax : Nat := 15

/-- Idle steps of 0.25 µs in one unit of TMO or QGAP, 10 µs (R88; DEDUCED, entry 14). -/
def ticksPerTenMicros : Nat := 40

/-- Idle steps of 0.25 µs in one unit of the epoch period, 100 µs (R156; DEDUCED, entry 14). -/
def ticksPerPeriodUnit : Nat := 400

/-- Bit times of one octet on a line: start bit, eight data bits, stop bit (R70). -/
def octetBits : Nat := 10

/-- Bit times of the 2 octet times of idle before a start delimiter, and of the idle that cuts a frame short
(R70, R76). -/
def idleBits : Nat := 2 * octetBits

/-- A FREE VALUE: which of the things that fall at one instant is taken first, where the spec says that
either may be (entries 5 and 6, DESIGN CHOICE, safe). It has no body, so nothing can be proved of its
values. `State.choices` is the index of the next one. -/
opaque freeChoice : Nat → Nat

end Sys2Proof.Config
end

