-- ==== Sys2Proof/Syntax.lean ====
section
/-! DEFINITION. The commands of the LQ-318: one constructor per row of spec/opcode_table.json. -/

namespace Sys2Proof

/-- The two Fieldlane ports (00_scope.md, block table). -/
inductive Port where
  | A
  | B
deriving DecidableEq, Repr

/-- Which octet of a two-octet register is written (EVF 0Ch/0Dh, EVE 0Eh/0Fh; R182, R183). -/
inductive Half where
  | low
  | high
deriving DecidableEq, Repr

/-- The blocks that take the epoch mark (09_epochs.md, "Where the epoch mark goes"). -/
inductive MarkBlock where
  | captureTable
  | recordAccess
  | nodeTable
  | requestPool
  | crcWindow (p : Port)
  | inhibitUnit
deriving DecidableEq, Repr

/-- The blocks in the order of the table of 09_epochs.md. -/
def MarkBlock.all : List MarkBlock :=
  [.captureTable, .recordAccess, .nodeTable, .requestPool, .crcWindow .A, .crcWindow .B, .inhibitUnit]

/-- The commands: the rows of spec/opcode_table.json in the table's order. A host command reads its
arguments from ARG0–ARG3 and the staging area (R190), so it carries none here. -/
inductive Instr where
  /-- Power-on, or RESET# held low and released (R192). -/
  | hardReset
  /-- CMD 5Ah (R193). -/
  | softReset
  /-- A write to CMD of a code that names no command (R190). -/
  | badCommand (code : Octet)
  /-- CMD 10h (R43). -/
  | viewRecord
  /-- CMD 11h (R45). -/
  | viewNode
  /-- CMD 12h (R46). -/
  | viewPort
  /-- CMD 18h (R35). -/
  | popChange
  /-- CMD 19h (R36). -/
  | peekChange
  /-- CMD 20h (R20). -/
  | pin
  /-- CMD 21h (R20). -/
  | unpin
  /-- CMD 22h (R21). -/
  | release
  /-- CMD 23h (R22). -/
  | flush
  /-- CMD 28h (R49). -/
  | hold
  /-- CMD 29h (R50). -/
  | holdSet
  /-- CMD 2Ah (R51). -/
  | unhold
  /-- CMD 30h (R66). -/
  | filterSet
  /-- CMD 38h (R117). -/
  | nodeSet
  /-- CMD 39h (R118). -/
  | nodeEnable
  /-- CMD 3Ah (R119). -/
  | nodeDisable
  /-- CMD 3Bh (R120). -/
  | nodeRemove
  /-- CMD 3Ch (R127). -/
  | nodeAck
  /-- CMD 40h (R139). -/
  | submit
  /-- CMD 41h (R145). -/
  | abort
  /-- CMD 42h (R150). -/
  | popCompletion
  /-- CMD 48h (R167). -/
  | inhForce
  /-- CMD 49h (R168). -/
  | inhClear
  /-- CMD 4Ah (R174). -/
  | inhAck
  /-- CMD 50h (R84). -/
  | portEnable
  /-- CMD 51h (R85). -/
  | portDisable
  /-- CMD 52h (R86). -/
  | portReset
  /-- CMD 53h (R80). -/
  | clearCounters
  /-- A write to one octet of EVF (R182). -/
  | evfWrite (half : Half) (value : Octet)
  /-- A write to one octet of EVE (R183). -/
  | eveWrite (half : Half) (value : Octet)
  /-- A write to INHM, 12h (R169). -/
  | inhmWrite (value : Octet)
  /-- A write to 18h (R157). -/
  | eppLowWrite (value : Octet)
  /-- A write to 19h (R157). -/
  | periodWrite (value : Octet)
  /-- A read of 1Ah (R160). -/
  | epcSnapshot
  /-- A write to any other address of the window (R189, R194). -/
  | registerWrite (addr : Addr) (value : Octet)
  /-- A frame on `port` has ended: `octets` are the octets taken after the start delimiter, up to the last
  octet before an octet error or before 2 octet times of idle (R76, R77; entry 18). -/
  | frameReceived (port : Port) (octets : List Octet)
  /-- The arbiter of `port` evaluates its candidates (R97, R99). -/
  | grant (port : Port)
  /-- The last octet of the frame leaves the line driver of `port` (R100). -/
  | transmitCompletion (port : Port)
  /-- The response timeout of `port` expires (R103). -/
  | responseTimeoutExpiry (port : Port)
  /-- The quiet interval of `port` ends (R105). -/
  | quietIntervalExpiry (port : Port)
  /-- The boundary of an epoch (R158). `blocks` are the blocks that take the mark within this step, in this
  order; the mark stays outstanding for every other block (entry 2). -/
  | epochMark (blocks : List MarkBlock)
  /-- The capture table takes an outstanding mark (R13, R14). -/
  | recordStale
  /-- The record access unit takes an outstanding mark (R52). -/
  | holdExpiry
  /-- The node table takes an outstanding mark (R130). -/
  | fallsDue
  /-- The request pool takes an outstanding mark (R143). -/
  | deadlineExpiry
  /-- The CRC-burst detector of `port` takes an outstanding mark (R89). -/
  | crcWindowEnd (port : Port)
  /-- The inhibit unit takes an outstanding mark (R173). -/
  | releaseCountdownEnd
  /-- A start delimiter after at least 2 octet times of idle is received on `port` (R76). -/
  | startDelimiter (port : Port)
deriving DecidableEq, Repr

end Sys2Proof
end

