-- ==== Sys2Proof/WellFormed.lean ====
section
/-! DEFINITION. Which terms of `Instr` are commands of their row. -/

namespace Sys2Proof

/-- The command codes of CMD (R194, "The values of CMD"). -/
def commandCodes : List Octet :=
  [0x10, 0x11, 0x12, 0x18, 0x19, 0x20, 0x21, 0x22, 0x23, 0x28, 0x29, 0x2A, 0x30, 0x38, 0x39,
   0x3A, 0x3B, 0x3C, 0x40, 0x41, 0x42, 0x48, 0x49, 0x4A, 0x50, 0x51, 0x52, 0x53, 0x5A]

/-- The addresses whose writes are rows of their own: CMD, EVF, EVE, INHM, EPP. -/
def ownRowAddresses : List Addr := [0x00, 0x0C, 0x0D, 0x0E, 0x0F, 0x12, 0x18, 0x19]

/-- A bad command's code names no command (R190). -/
def badCodeOk (code : Octet) : Bool := !commandCodes.contains code

/-- A plain register write goes to an address that has no row of its own (R189). -/
def plainAddressOk (a : Addr) : Bool := !ownRowAddresses.contains a

/-- The octets of a received frame go no further than the deframer takes them: to the last header octet
of a frame whose body length is above 96, else to the last check octet (R76). -/
def frameOctetsOk (os : List Octet) : Bool :=
  match os with
  | _ :: _ :: _ :: _ :: n :: rest => if n.toNat > 96 then rest.isEmpty else decide (rest.length ≤ n.toNat + 2)
  | _ => true

/-- No block takes one mark twice, and the record access unit takes it after the capture table (R52). -/
def markOrderOk (blocks : List MarkBlock) : Bool :=
  decide blocks.Nodup &&
    (!blocks.contains .recordAccess || (blocks.takeWhile (· != .recordAccess)).contains .captureTable)

/-- The well-formed commands. -/
def Instr.wellFormed : Instr → Bool
  | .badCommand code => badCodeOk code
  | .registerWrite a _ => plainAddressOk a
  | .frameReceived _ os => frameOctetsOk os
  | .epochMark blocks => markOrderOk blocks
  | .hardReset | .softReset | .viewRecord | .viewNode | .viewPort | .popChange | .peekChange | .pin
  | .unpin | .release | .flush | .hold | .holdSet | .unhold | .filterSet | .nodeSet | .nodeEnable
  | .nodeDisable | .nodeRemove | .nodeAck | .submit | .abort | .popCompletion | .inhForce | .inhClear
  | .inhAck | .portEnable | .portDisable | .portReset | .clearCounters | .evfWrite _ _ | .eveWrite _ _
  | .inhmWrite _ | .eppLowWrite _ | .periodWrite _ | .epcSnapshot | .grant _ | .transmitCompletion _
  | .responseTimeoutExpiry _ | .quietIntervalExpiry _ | .recordStale | .holdExpiry | .fallsDue
  | .deadlineExpiry | .crcWindowEnd _ | .releaseCountdownEnd | .startDelimiter _ => true

end Sys2Proof
end

