-- ==== Sys2Proof/Decode.lean ====
section
/-! DEFINITION. From what the host clocks over SPI to commands: the codes of CMD, the addresses of the
window, whole write transactions; and `decodeTableWord`, over the rows of the table that give bits (none). -/

namespace Sys2Proof

/-- The command of the table that a word spells by the table's bits. No row of spec/opcode_table.json gives
any bits ("fields" is empty on every row), so no word spells one (entry 13). -/
def decodeTableWord (_nbits _w : Nat) : Option Instr := none

/-- The command taken when `code` is written to CMD (R190, R194). -/
def commandOfCode (code : Octet) : Instr :=
  if code = 0x10 then .viewRecord
  else if code = 0x11 then .viewNode
  else if code = 0x12 then .viewPort
  else if code = 0x18 then .popChange
  else if code = 0x19 then .peekChange
  else if code = 0x20 then .pin
  else if code = 0x21 then .unpin
  else if code = 0x22 then .release
  else if code = 0x23 then .flush
  else if code = 0x28 then .hold
  else if code = 0x29 then .holdSet
  else if code = 0x2A then .unhold
  else if code = 0x30 then .filterSet
  else if code = 0x38 then .nodeSet
  else if code = 0x39 then .nodeEnable
  else if code = 0x3A then .nodeDisable
  else if code = 0x3B then .nodeRemove
  else if code = 0x3C then .nodeAck
  else if code = 0x40 then .submit
  else if code = 0x41 then .abort
  else if code = 0x42 then .popCompletion
  else if code = 0x48 then .inhForce
  else if code = 0x49 then .inhClear
  else if code = 0x4A then .inhAck
  else if code = 0x50 then .portEnable
  else if code = 0x51 then .portDisable
  else if code = 0x52 then .portReset
  else if code = 0x53 then .clearCounters
  else if code = 0x5A then .softReset
  else .badCommand code

/-- The code of CMD that asks for a command, for the rows that are CMD writes (R194). -/
def Instr.cmdCode : Instr → Option Octet
  | .viewRecord => some 0x10
  | .viewNode => some 0x11
  | .viewPort => some 0x12
  | .popChange => some 0x18
  | .peekChange => some 0x19
  | .pin => some 0x20
  | .unpin => some 0x21
  | .release => some 0x22
  | .flush => some 0x23
  | .hold => some 0x28
  | .holdSet => some 0x29
  | .unhold => some 0x2A
  | .filterSet => some 0x30
  | .nodeSet => some 0x38
  | .nodeEnable => some 0x39
  | .nodeDisable => some 0x3A
  | .nodeRemove => some 0x3B
  | .nodeAck => some 0x3C
  | .submit => some 0x40
  | .abort => some 0x41
  | .popCompletion => some 0x42
  | .inhForce => some 0x48
  | .inhClear => some 0x49
  | .inhAck => some 0x4A
  | .portEnable => some 0x50
  | .portDisable => some 0x51
  | .portReset => some 0x52
  | .clearCounters => some 0x53
  | .softReset => some 0x5A
  | .badCommand code => some code
  | .hardReset | .evfWrite _ _ | .eveWrite _ _ | .inhmWrite _ | .eppLowWrite _ | .periodWrite _
  | .epcSnapshot | .registerWrite _ _ | .frameReceived _ _ | .grant _ | .transmitCompletion _
  | .responseTimeoutExpiry _ | .quietIntervalExpiry _ | .epochMark _ | .recordStale | .holdExpiry
  | .fallsDue | .deadlineExpiry | .crcWindowEnd _ | .releaseCountdownEnd | .startDelimiter _ => none

/-- The command that one completed data octet of a write transaction is (R188, R190, R194). -/
def hostWrite (a : Addr) (v : Octet) : Instr :=
  if a = 0x00 then commandOfCode v
  else if a = 0x0C then .evfWrite .low v
  else if a = 0x0D then .evfWrite .high v
  else if a = 0x0E then .eveWrite .low v
  else if a = 0x0F then .eveWrite .high v
  else if a = 0x12 then .inhmWrite v
  else if a = 0x18 then .eppLowWrite v
  else if a = 0x19 then .periodWrite v
  else .registerWrite a v

/-- The commands of a write transaction that starts at `a` and whose completed data octets are `data`: the
address advances by 1 after each octet and wraps from 7Fh to 00h (R189). -/
def spiWrite (a : Addr) : List Octet → List Instr
  | [] => []
  | v :: vs => hostWrite a v :: spiWrite (a + 1) vs

/-- The commands of an SPI transaction, given the octets that were completed before CS# rose: the address
octet, then data octets. Bit 7 of the address octet is 1 for a write. A transaction cut within its address
octet does nothing; a read is a command only where its octets pass through 1Ah (R188, R189, R160). -/
def spiCommands : List Octet → List Instr
  | [] => []
  | a :: data =>
    if a.getLsbD 7 then spiWrite (a.truncate 7) data
    else (List.range data.length).filterMap fun k =>
      if a.truncate 7 + BitVec.ofNat 7 k = (0x1A : Addr) then some .epcSnapshot else none

end Sys2Proof
end

