-- ==== Sys2Proof/Machine/State.lean ====
section
/-! DEFINITION. The state of the LQ-318 as plain data, and the state after a hard reset. -/

namespace Sys2Proof.Machine

/-- No rule of the spec stops the part, so the model has no fault. -/
inductive Fault where
deriving DecidableEq, Repr

/-- Why a command is refused by the model (not by the part, whose refusals are result codes). -/
inductive Refusal where
  /-- Raised by `exec`'s arms for a row without a meaning; safe. No arm answers it. -/
  | notModelled (mnemonic : String)
  /-- Raised for a term that is no command of its row: `badCommand` of a code that names a command, and
  `registerWrite` at an address with a row of its own (entry 15); safe. -/
  | notWellFormed
deriving DecidableEq, Repr

/-- Result codes of RSLT (R191). -/
inductive ResultCode where
  | ok | empty | full | noRecord | held | notHeld | holdLimit | tagInUse | noTag | wrongState | portOff
  | badArgument | badCommand
deriving DecidableEq, Repr

/-- State of a record in use (R3). -/
inductive RecordState where
  | live | stale | orphan
deriving DecidableEq, Repr

/-- Which arrivals produce change notices (R10). -/
inductive Policy where
  | onChange | onUpdate | silent
deriving DecidableEq, Repr

/-- What a decided item undergoes (R58, R59). -/
inductive Action where
  | discard | capture
deriving DecidableEq, Repr

/-- Port match of a filter (R58). -/
inductive PortMatch where
  | only (p : Port)
  | either
deriving DecidableEq, Repr

/-- The copy of the latest arrival for a held record (R11). Its length is the payload's. -/
structure Shadow where
  payload : List Octet
  sequence : Octet
deriving DecidableEq, Repr

/-- A record in use (R1). Its length field is the length of `payload`. -/
structure Record where
  entry : Nat
  itemType : ItemType
  state : RecordState
  payload : List Octet
  sequence : Octet
  age : Nat
  updateCount : Word16
  filterIndex : Nat
  policy : Policy
  staleLimit : Nat
  inhibit : Bool
  pinned : Bool
  held : Bool
  shadow : Option Shadow
  queued : Bool
deriving DecidableEq, Repr

/-- One entry of the change queue (R29). The cause set has bit 0 NEW, 1 UPDATE, 2 REVIVED, 3 STALE,
4 ORPHAN (R198). -/
structure ChangeEntry where
  record : Nat
  causes : BitVec 5
deriving DecidableEq, Repr

/-- One entry of the hold list (R48). -/
structure Hold where
  record : Nat
  age : Nat
deriving DecidableEq, Repr

/-- One filter (R58). -/
structure Filter where
  enabled : Bool
  portMatch : PortMatch
  addressLow : Nat
  addressHigh : Nat
  typeValue : ItemType
  typeMask : ItemType
  action : Action
  policy : Policy
  staleLimit : Nat
  inhibit : Bool
  pinOnAllocate : Bool
deriving DecidableEq, Repr

/-- A filter whose enabled field is no: every other field 0 (R58). -/
def Filter.disabled : Filter :=
  { enabled := false, portMatch := .only .A, addressLow := 0, addressHigh := 0, typeValue := 0, typeMask := 0,
    action := .discard, policy := .onChange, staleLimit := 0, inhibit := false, pinOnAllocate := false }

/-- Link state of a port (R81). -/
inductive LinkState where
  | disabled | searching | up | down
deriving DecidableEq, Repr

/-- Bit rates (R70, R88). -/
inductive BitRate where
  | k250 | m1 | m2 | m4
deriving DecidableEq, Repr

/-- Condition of a deframer (R76). `octets` are those of the frame in progress that have been taken since its
start delimiter. -/
inductive Deframer where
  | hunting
  | receiving (octets : List Octet)
deriving DecidableEq, Repr

/-- What a port holds of its receive pin (R70): the bit times for which the line has been idle, up to those of
2 octet times, and the data bits of the octet in progress, the first of them first; `none` between octets. -/
structure LineReceiver where
  idle : Nat
  bits : Option (List Bool)
deriving DecidableEq, Repr

/-- No octet in progress, and the line idle from this moment (R76, R84). -/
def LineReceiver.fresh : LineReceiver := { idle := 0, bits := none }

/-- State of a port sequencer (R94) with what it holds there. Times are in idle steps of 0.25 µs. -/
inductive Sequencer where
  | idle
  /-- Driving the line with `frame`; `tmo` is the response timeout read at the grant (R99). -/
  | sending (frame : List Octet) (tmo : Octet) (timeLeft : Nat)
  | awaiting (timeLeft : Nat)
  /-- `awaited` is the awaited address of the attempt just ended, if there is one (R104). -/
  | quiet (awaited : Option Nat) (timeLeft : Nat)
deriving DecidableEq, Repr

/-- What a transaction serves, with the fields a request has beside (R95). -/
inductive Work where
  | poll
  | request (tag : Octet) (itemType : ItemType)
deriving DecidableEq, Repr

/-- The transaction record (R95). `entryLost` remembers that the node entry was disabled since the first
grant: for a poll the cycle is then detached (R119), for a request it is not retried (R106; entry 9). -/
structure Transaction where
  work : Work
  entry : Option Nat
  awaited : Option Nat
  allowed : Nat
  made : Nat
  firstInDown : Bool
  retryPending : Bool
  entryLost : Bool
deriving DecidableEq, Repr

/-- The kind that won a grant (R95). -/
inductive GrantKind where
  | poll | request
deriving DecidableEq, Repr

/-- The eight counters of a port (R79). -/
structure PortCounters where
  crcErrors : Nat
  formatErrors : Nat
  foreign : Nat
  stray : Nat
  late : Nat
  unknownSource : Nat
  noReply : Nat
  discarded : Nat
deriving DecidableEq, Repr

/-- All eight counters at 0. -/
def PortCounters.zero : PortCounters :=
  { crcErrors := 0, formatErrors := 0, foreign := 0, stray := 0, late := 0, unknownSource := 0, noReply := 0,
    discarded := 0 }

/-- One port: link side, sequencer, arbiter and due list (R76, R81, R82, R84, R89, R94, R95, R129). -/
structure PortState where
  link : LinkState
  storedRate : BitRate
  lineRate : BitRate
  silence : Nat
  counters : PortCounters
  windowEpochs : Nat
  windowCrc : Nat
  fired : Bool
  transmitCount : Octet
  deframer : Deframer
  receiver : LineReceiver
  sequencer : Sequencer
  transaction : Option Transaction
  heard : Bool
  lastGrant : GrantKind
  dueList : List Nat
deriving DecidableEq, Repr

/-- A port after a hard reset (R92, R112, R134). The heard mark, the deframer and the
receiver: DESIGN CHOICE, entry 10. -/
def PortState.reset : PortState :=
  { link := .disabled, storedRate := .m1, lineRate := .m1, silence := 0, counters := .zero, windowEpochs := 0,
    windowCrc := 0, fired := false, transmitCount := 0, deframer := .hunting, receiver := .fresh, sequencer := .idle,
    transaction := none, heard := false, lastGrant := .request, dueList := [] }

/-- State of a node entry (R116). -/
inductive NodeState where
  | vacant | disabled | probing | present | suspect | absent
deriving DecidableEq, Repr

/-- One node entry (R115). -/
structure NodeEntry where
  port : Port
  address : Nat
  pollInterval : Nat
  retryLimit : Nat
  absentThreshold : Nat
  inhibit : Bool
  state : NodeState
  notice : Bool
  countdown : Nat
  missCount : Nat
  lastSequence : Option Octet
  gaps : Nat
  duplicates : Nat
  lates : Nat
  slips : Nat
  polled : Bool
deriving DecidableEq, Repr

/-- A VACANT entry: every field 0 (R115). -/
def NodeEntry.vacant : NodeEntry :=
  { port := .A, address := 0, pollInterval := 0, retryLimit := 0, absentThreshold := 0, inhibit := false,
    state := .vacant, notice := false, countdown := 0, missCount := 0, lastSequence := none, gaps := 0,
    duplicates := 0, lates := 0, slips := 0, polled := false }

/-- State of a request that holds its slot (R141). -/
inductive RequestState where
  | waiting | inFlight
deriving DecidableEq, Repr

/-- A request record (R137). Its length field is the length of `payload`. -/
structure Request where
  tag : Octet
  port : Port
  address : Nat
  itemType : ItemType
  payload : List Octet
  retryCount : Nat
  deadline : Nat
  gated : Bool
  state : RequestState
  abortPending : Bool
  attempts : Nat
deriving DecidableEq, Repr

/-- Reasons of a NAK (R72). -/
inductive NakReason where
  | busy | unknownType | refused
deriving DecidableEq, Repr

/-- Status of a completion (R147). A NAK carries its reason (R148). -/
inductive Status where
  | ok
  | nak (reason : NakReason)
  | noReply | aborted | expired | nodeAbsent | flushed
deriving DecidableEq, Repr

/-- A completion record (R148). -/
structure Completion where
  tag : Octet
  status : Status
  attempts : Nat
  epoch : Word16
deriving DecidableEq, Repr

/-- The epoch timer (R156). A current period of `none` is a stopped timer. -/
structure EpochTimer where
  period : Option Word16
  pendingPeriod : Option Word16
  elapsed : Nat
  count : Word32
  heldLow : Octet
  snapshot : Word32
deriving DecidableEq, Repr

/-- The inhibit conditions (R164). -/
inductive Condition where
  | startup | force | portADown | portBDown | nodeLost | dataStale | linkErrors | tableFull
deriving DecidableEq, Repr

/-- Inhibit state (R170). Only RELEASING has a countdown. -/
inductive InhibitState where
  | clear
  | asserted
  | releasing (countdown : Nat)
  | awaitingAck
deriving DecidableEq, Repr

/-- Release mode of INHC (R172). -/
inductive ReleaseMode where
  | auto | manual
deriving DecidableEq, Repr

/-- The inhibit unit (R164, R169, R170, R172, R176). Bit n of `active` (INHA) and of `mask` (INHM) is
condition n. -/
structure InhibitUnit where
  state : InhibitState
  active : Octet
  mask : Octet
  mode : ReleaseMode
  delay : Octet
  firstCause : Condition
  firstEpoch : Word16
deriving DecidableEq, Repr

/-- Where an SPI transaction stands (R188). `got` are the bits of the octet in progress that have been sampled,
the first of them first; an address is that of the octet in progress. -/
inductive SpiPhase where
  /-- No transaction: CS# is high, or has been low since before the end of a hard reset (R192). -/
  | off
  | address (got : List Bool)
  | write (addr : Addr) (got : List Bool)
  /-- `got` counts the bits of the octet in progress that have been clocked; `count` is the epoch count at the
  moment at which that octet was taken (R160; entry 11). -/
  | read (addr : Addr) (got : Nat) (count : Word32)
deriving DecidableEq, Repr

/-- The SPI side of the host port (R188): the levels of CS# and SCK, the transaction in progress, and the bits
of the octet that is being shifted out, the one on SDO first. -/
structure HostPort where
  csHigh : Bool
  sckHigh : Bool
  phase : SpiPhase
  out : List Bool
deriving DecidableEq, Repr

/-- The host port at rest, with CS# high and SCK low. That the host drives these levels at reset is a DESIGN
CHOICE, entry 12: the spec gives no level of an input. -/
def HostPort.reset : HostPort := { csHigh := true, sckHigh := false, phase := .off, out := [] }

/-- The host port as a hard reset leaves it: a transaction in progress is abandoned, and with CS# low none is
taken until CS# has been high (R192). The levels are the host's. -/
def HostPort.abandoned (h : HostPort) : HostPort := { h with phase := .off, out := [] }

/-- The whole block. -/
structure State where
  /-- CMD (R190). -/
  cmd : Octet
  /-- ARG0–ARG3 (R190). -/
  args : Vector Octet 4
  /-- The staging area (R196). -/
  staging : Vector Octet 32
  /-- RSLT (R191). -/
  rslt : ResultCode
  /-- RES0–RES5 (R191). -/
  res : Vector Octet 6
  /-- The view buffer (R42). -/
  view : Vector Octet 48
  /-- The hold list, head first (R48). -/
  holds : List Hold
  /-- HLIM (R53). -/
  hlim : Octet
  /-- The capture table; `none` is a FREE record (R1). -/
  records : Vector (Option Record) 48
  /-- Eviction counter (R25). -/
  evictions : Nat
  /-- Drop counter (R25). -/
  drops : Nat
  /-- Shadow-overwrite counter (R25). -/
  shadowOverwrites : Nat
  /-- The change queue, head first (R29). -/
  queue : List ChangeEntry
  /-- The filters (R58). -/
  filters : Vector Filter 16
  /-- DEFA (R59). -/
  defa : Action
  /-- Port A. -/
  portA : PortState
  /-- Port B. -/
  portB : PortState
  /-- TMO (R88). -/
  tmo : Octet
  /-- QGAP (R88). -/
  qgap : Octet
  /-- SILIM (R88). -/
  silim : Octet
  /-- CRCT (R88). -/
  crct : Octet
  /-- CRCW (R88). -/
  crcw : Octet
  /-- The node table (R115). -/
  nodes : Vector NodeEntry 32
  /-- The requests of the pool, in submission order (R137, R138). -/
  requests : List Request
  /-- The completion ring, head first (R149). -/
  completions : List Completion
  /-- The epoch timer (R156). -/
  epoch : EpochTimer
  /-- The inhibit unit (R164). -/
  inh : InhibitUnit
  /-- The sticky event flags at their positions of EVF (R180, R195); bits 0 and 1 are unused here, since the
  level flags are computed (R181). -/
  sticky : BitVec 9
  /-- EVE (R183). -/
  enables : BitVec 9
  /-- The SPI side of the host port (R188). -/
  host : HostPort
  /-- RESET# is held low, or the power-on reset has not ended (R192). -/
  held : Bool
  /-- The model's own: the blocks that an emitted epoch mark has still to reach (entry 2). -/
  marks : List MarkBlock
  /-- The model's own: index of the next free value (entries 5 and 6). -/
  choices : Nat
  /-- The commands that wait, first in, first out. -/
  pending : List Instr
deriving DecidableEq, Repr

/-- The epoch timer after a hard reset (R163). -/
def EpochTimer.reset : EpochTimer :=
  { period := some 100, pendingPeriod := none, elapsed := 0, count := 0, heldLow := 0x64, snapshot := 0 }

/-- The inhibit unit after a hard reset (R179). -/
def InhibitUnit.reset : InhibitUnit :=
  { state := .asserted, active := 0x01, mask := 0xFF, mode := .auto, delay := 10, firstCause := .startup,
    firstEpoch := 0 }

/-- The block right after a hard reset (R192): R26, R41, R57, R69, R88, R92, R112, R134, R155, R163, R179,
R186, R190. `marks`, `choices`, the levels of CS# and SCK: DESIGN CHOICE, entries 2, 5 and 12. -/
def State.reset : State :=
  { cmd := 0, args := Vector.replicate 4 0, staging := Vector.replicate 32 0, rslt := .ok,
    res := Vector.replicate 6 0, view := Vector.replicate 48 0, holds := [], hlim := 0,
    records := Vector.replicate 48 none, evictions := 0, drops := 0, shadowOverwrites := 0, queue := [],
    filters := Vector.replicate 16 Filter.disabled, defa := .discard, portA := .reset, portB := .reset,
    tmo := 40, qgap := 5, silim := 4, crct := 8, crcw := 16, nodes := Vector.replicate 32 NodeEntry.vacant,
    requests := [], completions := [], epoch := .reset, inh := .reset, sticky := 0, enables := 0,
    host := .reset, held := false, marks := [], choices := 0, pending := [] }

end Sys2Proof.Machine
end

