-- ==== Sys2Proof/Machine/Ops.lean ====
section
/-! DEFINITION. The shared operations on the state: access to numbered parts, command results, the change
queue, records, the hold list, the request pool, the node table's lookups. -/

namespace Sys2Proof.Machine

/-! ### Numbered parts -/

/-- The state of one port. -/
def State.port (s : State) : Port → PortState
  | .A => s.portA
  | .B => s.portB

/-- `s` with one port replaced. -/
def State.setPort (s : State) (p : Port) (x : PortState) : State :=
  match p with
  | .A => { s with portA := x }
  | .B => { s with portB := x }

/-- `s` with one port changed by `f`. -/
def State.modPort (s : State) (p : Port) (f : PortState → PortState) : State := s.setPort p (f (s.port p))

/-- `s` with one port's counters changed by `f` (R79). -/
def State.modCounters (s : State) (p : Port) (f : PortCounters → PortCounters) : State :=
  s.modPort p fun ps => { ps with counters := f ps.counters }

/-- Record `r`, `none` when it is FREE (R1). -/
def State.record (s : State) (r : Nat) : Option Record := (s.records[r]?).getD none

/-- `s` with record `r` replaced. -/
def State.setRecord (s : State) (r : Nat) (o : Option Record) : State :=
  { s with records := s.records.setIfInBounds r o }

/-- Node entry `e` (R115). -/
def State.node (s : State) (e : Nat) : NodeEntry := (s.nodes[e]?).getD NodeEntry.vacant

/-- `s` with node entry `e` replaced. -/
def State.setNode (s : State) (e : Nat) (n : NodeEntry) : State :=
  { s with nodes := s.nodes.setIfInBounds e n }

/-- `s` with node entry `e` changed by `f`. -/
def State.modNode (s : State) (e : Nat) (f : NodeEntry → NodeEntry) : State := s.setNode e (f (s.node e))

/-- Filter `i` (R58). -/
def State.filter (s : State) (i : Nat) : Filter := (s.filters[i]?).getD Filter.disabled

/-- The record indices, ascending. -/
def recordIndices : List Nat := List.range Config.recordCount

/-- The node entry indices, ascending. -/
def nodeIndices : List Nat := List.range Config.nodeCount

/-! ### Results of commands (R190, R191) -/

/-- The six result octets: those a rule names, then zeros. -/
def resultOctets (os : List Octet) : Vector Octet 6 :=
  #v[os.getD 0 0, os.getD 1 0, os.getD 2 0, os.getD 3 0, os.getD 4 0, os.getD 5 0]

/-- CMD reads back the code written to it (R190). -/
def State.taken (s : State) (code : Octet) : State := { s with cmd := code }

/-- RSLT and all six result octets (R191). -/
def State.result (s : State) (c : ResultCode) (os : List Octet) : State :=
  { s with rslt := c, res := resultOctets os }

/-! ### The epoch count as others record it -/

/-- The low 16 bits of the epoch count (R158). -/
def State.epoch16 (s : State) : Word16 := s.epoch.count.truncate 16

/-! ### Causes and the change queue (R29 to R41) -/

/-- Cause NEW (R198). -/
def causeNew : BitVec 5 := 0x01
/-- Cause UPDATE. -/
def causeUpdate : BitVec 5 := 0x02
/-- Cause REVIVED. -/
def causeRevived : BitVec 5 := 0x04
/-- Cause STALE. -/
def causeStale : BitVec 5 := 0x08
/-- Cause ORPHAN. -/
def causeOrphan : BitVec 5 := 0x10

/-- The causes of a join added to the record's existing entry, which keeps its place (R32). -/
def mergeCauses (r : Nat) (causes : BitVec 5) (q : List ChangeEntry) : List ChangeEntry :=
  q.map fun e => if e.record = r then { e with causes := e.causes ||| causes } else e

/-- A join: a new entry at the tail, or a merge (R31, R32). -/
def State.join (s : State) (r : Nat) (causes : BitVec 5) : State :=
  match s.record r with
  | none => s
  | some rec =>
    if rec.queued then { s with queue := mergeCauses r causes s.queue }
    else { s with queue := s.queue ++ [⟨r, causes⟩] : State }.setRecord r (some { rec with queued := true })

/-- The causes of one event of record `r` go to the queue, unless there are none or the record's notify
policy is SILENT (R9, R23). -/
def State.notify (s : State) (r : Nat) (causes : BitVec 5) : State :=
  match s.record r with
  | none => s
  | some rec => if rec.policy = .silent ∨ causes = 0 then s else s.join r causes

/-- A removal (R33). -/
def State.unqueue (s : State) (r : Nat) : State :=
  { s with queue := s.queue.filter fun e => e.record ≠ r }

/-! ### Records (R1 to R25) -/

/-- Freeing a record: its queue entry goes, and it becomes FREE (R18). -/
def State.freeRecord (s : State) (r : Nat) : State := (s.unqueue r).setRecord r none

/-- A record counts toward DATA_STALE when it has the inhibit attribute and is STALE or ORPHAN (R24). -/
def Record.untrusted (rec : Record) : Bool := rec.inhibit && decide (rec.state ≠ .live)

/-- The level of DATA_STALE (R24). -/
def State.dataStaleLevel (s : State) : Bool := s.records.toList.any fun o => o.any Record.untrusted

/-- The in-use record with a key (R2). -/
def State.findRecord (s : State) (e : Nat) (t : ItemType) : Option Nat :=
  recordIndices.find? fun r => (s.record r).any fun rec => rec.entry = e && rec.itemType = t

/-- The lowest-numbered FREE record (R5). -/
def State.freeIndex (s : State) : Option Nat := recordIndices.find? fun r => (s.record r).isNone

/-- The tests of an eviction candidate (R6). -/
def Record.evictable (rec : Record) : Bool := !rec.pinned && !rec.held && decide (rec.state ≠ .live)

/-- One comparison of the search for the victim: a candidate of strictly greater age replaces the best so
far, so that ties keep the lowest index (R6). -/
def betterVictim (s : State) (best : Option (Nat × Nat)) (r : Nat) : Option (Nat × Nat) :=
  match s.record r with
  | none => best
  | some rec =>
    if rec.evictable then
      match best with
      | none => some (r, rec.age)
      | some (b, age) => if rec.age > age then some (r, rec.age) else some (b, age)
    else best

/-- The eviction victim, if there is one (R6). -/
def State.victim (s : State) : Option Nat := (recordIndices.foldl (betterVictim s) none).map Prod.fst

/-- The in-use records whose key names an entry, ascending (R17). -/
def State.ownedRecords (s : State) (e : Nat) : List Nat :=
  recordIndices.filter fun r => (s.record r).any fun rec => rec.entry = e

/-- Whether an entry owns a held record (R17). -/
def State.ownsHeld (s : State) (e : Nat) : Bool :=
  (s.ownedRecords e).any fun r => (s.record r).any Record.held

/-- The number of in-use records (R25). -/
def State.recordsInUse (s : State) : Nat := (s.records.toList.filter Option.isSome).length

/-- Change detection: the record after a payload update, and its cause UPDATE if there is one (R10). -/
def Record.takePayload (rec : Record) (payload : List Octet) : Record × BitVec 5 :=
  if payload = rec.payload then
    if rec.policy = .onUpdate then ({ rec with updateCount := rec.updateCount + 1 }, causeUpdate) else (rec, 0)
  else ({ rec with payload := payload, updateCount := rec.updateCount + 1 }, causeUpdate)

/-! ### The hold list (R48 to R57) -/

/-- A hold is taken on a record (R49, R50). -/
def State.takeHold (s : State) (r : Nat) : State :=
  match s.record r with
  | none => s
  | some rec =>
    { s with holds := s.holds ++ [⟨r, 0⟩] : State }.setRecord r (some { rec with held := true, shadow := none })

/-- The capture table's side of an unhold: the held field is cleared and the shadow applied (R12). -/
def State.unholdRecord (s : State) (r : Nat) : State :=
  match s.record r with
  | none => s
  | some rec =>
    match rec.shadow with
    | none => s.setRecord r (some { rec with held := false })
    | some sh =>
      let out := { rec with held := false, shadow := none, sequence := sh.sequence : Record }.takePayload sh.payload
      (s.setRecord r (some out.1)).notify r out.2

/-- A hold ends: steps 1 and 2 of UNHOLD (R51), as at an expiry (R52). -/
def State.endHold (s : State) (r : Nat) : State :=
  { s with holds := s.holds.filter fun h => h.record ≠ r : State }.unholdRecord r

/-! ### The request pool (R136 to R155) -/

/-- The number of slots in use (R136). -/
def State.slotsUsed (s : State) : Nat := s.requests.length + s.completions.length

/-- The request with a tag (R136). -/
def State.requestOf (s : State) (tag : Octet) : Option Request := s.requests.find? fun q => q.tag = tag

/-- The oldest WAITING request of a port (R138). -/
def State.oldestWaiting (s : State) (p : Port) : Option Request :=
  s.requests.find? fun q => q.port = p && q.state = .waiting

/-- A request's outcome turns its slot into a completion at the tail of the ring (R148). -/
def State.complete (s : State) (q : Request) (status : Status) : State :=
  { s with
    requests := s.requests.filter fun x => x.tag ≠ q.tag
    completions := s.completions ++ [⟨q.tag, status, q.attempts, s.epoch16⟩] }

/-- `s` with the request of a tag changed by `f`. -/
def State.modRequest (s : State) (tag : Octet) (f : Request → Request) : State :=
  { s with requests := s.requests.map fun q => if q.tag = tag then f q else q }

/-! ### The node table (R115 to R135) -/

/-- An entry is enabled in PROBING, PRESENT, SUSPECT and ABSENT (R115). -/
def NodeState.enabled : NodeState → Bool
  | .probing | .present | .suspect | .absent => true
  | .vacant | .disabled => false

/-- The non-VACANT entry with a port and a node address (R98, R128). -/
def State.findNode (s : State) (p : Port) (address : Nat) : Option Nat :=
  nodeIndices.find? fun e => (s.node e).state ≠ .vacant && (s.node e).port = p && (s.node e).address = address

/-- The enabled entries of a port, ascending (R125). -/
def State.enabledEntries (s : State) (p : Port) : List Nat :=
  nodeIndices.filter fun e => (s.node e).state.enabled && (s.node e).port = p

/-- The level of NODE_LOST (R133). -/
def State.nodeLostLevel (s : State) : Bool :=
  s.nodes.toList.any fun n => n.inhibit && decide (n.state = .absent)

/-! ### Ports (R81, R94) -/

/-- A port is enabled in SEARCHING, UP and DOWN (R81). -/
def PortState.enabled (ps : PortState) : Bool := decide (ps.link ≠ .disabled)

/-- The sequencer is IDLE (R94). -/
def PortState.isIdle (ps : PortState) : Bool := decide (ps.sequencer = .idle)

/-- The sequencer is in SENDING: driver enable is asserted (R76, R99). -/
def PortState.isSending (ps : PortState) : Bool :=
  match ps.sequencer with
  | .sending _ _ _ => true
  | _ => false

/-- The sequencer is in AWAITING (R94). -/
def PortState.isAwaiting (ps : PortState) : Bool :=
  match ps.sequencer with
  | .awaiting _ => true
  | _ => false

/-- Idle steps of 0.25 µs in one bit time (R70; DEDUCED, entry 14). -/
def BitRate.bitTicks : BitRate → Nat
  | .k250 => 16
  | .m1 => 4
  | .m2 => 2
  | .m4 => 1

/-- Idle steps in one octet time (R70). -/
def BitRate.octetTicks (rate : BitRate) : Nat := Config.octetBits * rate.bitTicks

/-- The time in SENDING: 2 octet times of idle and the frame (R70, R100). -/
def sendingTicks (rate : BitRate) (frame : List Octet) : Nat := (2 + frame.length) * rate.octetTicks

/-- The sequencer enters QUIET: QGAP is read, and the awaited address of the attempt just ended is kept if
there is one (R104). -/
def State.enterQuiet (s : State) (p : Port) (awaited : Option Nat) : State :=
  s.modPort p fun ps => { ps with sequencer := .quiet awaited (s.qgap.toNat * Config.ticksPerTenMicros) }

end Sys2Proof.Machine
end

