-- ==== Sys2Proof/Machine/Flags.lean ====
section
/-! DEFINITION. The event flags and IRQ (11_events_and_the_interrupt_line.md), and the inhibit unit's
conditions, states and first-cause record (10_the_inhibit_output.md). -/

namespace Sys2Proof.Machine

/-! ### Events -/

/-- Positions of the sticky flags in EVF (R195). -/
def eventNode : BitVec 9 := 0x004
/-- PORT. -/
def eventPort : BitVec 9 := 0x008
/-- INHIBIT. -/
def eventInhibit : BitVec 9 := 0x010
/-- TABLE_FULL. -/
def eventTableFull : BitVec 9 := 0x020
/-- HOLD_EXPIRED. -/
def eventHoldExpired : BitVec 9 := 0x040
/-- LINK_ERROR. -/
def eventLinkError : BitVec 9 := 0x080
/-- SLIP. -/
def eventSlip : BitVec 9 := 0x100

/-- A sticky event is raised (R180). -/
def State.raise (s : State) (e : BitVec 9) : State := { s with sticky := s.sticky ||| e }

/-- The level flags follow their collections (R40, R152, R181). -/
def State.levelFlags (s : State) : BitVec 9 :=
  (if s.queue.isEmpty then 0 else 0x001) ||| (if s.completions.isEmpty then 0 else 0x002)

/-- All nine flags as EVF gives them (R180, R182). -/
def State.flags (s : State) : BitVec 9 := (s.sticky &&& 0x1FC) ||| s.levelFlags

/-- IRQ is asserted exactly while a set flag has its enable set (R184). -/
def State.irq (s : State) : Bool := decide (s.flags &&& s.enables ≠ 0)

/-- The nine-bit value that a write to one octet of EVF or EVE stands for, and which bits it writes. -/
def halfBits (half : Half) (v : Octet) : BitVec 9 :=
  match half with
  | .low => v.setWidth 9
  | .high => (v.setWidth 9 &&& 1) <<< 8

/-- The positions that one octet of EVF or EVE holds (R195). -/
def halfMask : Half → BitVec 9
  | .low => 0x0FF
  | .high => 0x100

/-! ### Inhibit conditions -/

/-- The number of a condition (R164). -/
def Condition.number : Condition → Nat
  | .startup => 0
  | .force => 1
  | .portADown => 2
  | .portBDown => 3
  | .nodeLost => 4
  | .dataStale => 5
  | .linkErrors => 6
  | .tableFull => 7

/-- The conditions in the order of their numbers. -/
def Condition.all : List Condition :=
  [.startup, .force, .portADown, .portBDown, .nodeLost, .dataStale, .linkErrors, .tableFull]

/-- The condition set with one member, in the layout of INHA (R195). -/
def Condition.bit (c : Condition) : Octet := BitVec.ofNat 8 (2 ^ c.number)

/-- PORT_A_DOWN or PORT_B_DOWN. -/
def portDown : Port → Condition
  | .A => .portADown
  | .B => .portBDown

/-- Whether a condition is active (R164). -/
def InhibitUnit.isActive (u : InhibitUnit) (c : Condition) : Bool := u.active.getLsbD c.number

/-- The effective conditions: active and enabled in INHM (R164). -/
def InhibitUnit.effective (u : InhibitUnit) : Octet := u.active &&& u.mask

/-- The lowest-numbered condition of a set (R176). -/
def lowestCondition (set : Octet) : Condition :=
  (Condition.all.find? fun c => set.getLsbD c.number).getD .startup

/-- INH is asserted in every state but CLEAR (R170). -/
def InhibitState.inhAsserted : InhibitState → Bool
  | .clear => false
  | .asserted | .releasing _ | .awaitingAck => true

/-- INH is asserted (R170). -/
def State.inhAsserted (s : State) : Bool := s.inh.state.inhAsserted

/-- A condition has become effective: to ASSERTED, with the first-cause record and the INHIBIT event if the
unit was CLEAR (R171, R176, R177). -/
def State.inhAssert (s : State) (c : Condition) : State :=
  if s.inh.state = .clear then
    { s with inh := { s.inh with state := .asserted, firstCause := c, firstEpoch := s.epoch16 } : State }.raise eventInhibit
  else { s with inh := { s.inh with state := .asserted } }

/-- The unit goes to CLEAR: INH is deasserted and INHIBIT raised (R172, R173, R174, R177). -/
def State.inhRelease (s : State) : State := { s with inh := { s.inh with state := .clear } : State }.raise eventInhibit

/-- The release decision (R172). -/
def State.releaseDecision (s : State) : State :=
  match s.inh.mode with
  | .manual => { s with inh := { s.inh with state := .awaitingAck } }
  | .auto =>
    if s.inh.delay = 0 then s.inhRelease
    else { s with inh := { s.inh with state := .releasing s.inh.delay.toNat } }

/-- What the unit does after a change of its conditions or of its mask: `newly` are the conditions that
became effective by it (R171, R172). -/
def State.inhSettle (s : State) (newly : Octet) : State :=
  if newly ≠ 0 then s.inhAssert (lowestCondition newly)
  else if s.inh.state = .asserted ∧ s.inh.effective = 0 then s.releaseDecision
  else s

/-- A condition becomes active or inactive, as the unit acts on it; nothing where it already stands so
(R165, R166, R167). -/
def State.setCondition (s : State) (c : Condition) (on : Bool) : State :=
  if s.inh.isActive c = on then s
  else if on then
    { s with inh := { s.inh with active := s.inh.active ||| c.bit } : State }.inhSettle (c.bit &&& s.inh.mask)
  else { s with inh := { s.inh with active := s.inh.active &&& ~~~c.bit } : State }.inhSettle 0

/-! ### Node notices and lost nodes, which can only make conditions active -/

/-- One record under a node notice (R16). -/
def State.orphanRecord (s : State) (r : Nat) : State :=
  match s.record r with
  | none => s
  | some rec =>
    if rec.state = .orphan then s
    else (s.setRecord r (some { rec with state := .orphan })).notify r causeOrphan

/-- A node notice: the entry's LIVE and STALE records become ORPHAN, then DATA_STALE is re-evaluated once
(R16). A notice takes no record out of the level, so it never deasserts INH. -/
def State.nodeNotice (s : State) (e : Nat) : State :=
  let s := (s.ownedRecords e).foldl State.orphanRecord s
  s.setCondition .dataStale s.dataStaleLevel

/-- A change of state among the enabled ones: notice flag and NODE event (R126). -/
def State.nodeChanged (s : State) (e : Nat) : State :=
  (s.modNode e fun n => { n with notice := true }).raise eventNode

/-- The state of an entry after a miss that leaves its miss count at `misses` (R123). -/
def NodeEntry.afterMiss (n : NodeEntry) (misses : Nat) : NodeState :=
  if n.absentThreshold ≤ misses then .absent
  else if n.state = .present then .suspect
  else n.state

/-- A miss (R123). -/
def State.nodeMiss (s : State) (e : Nat) : State :=
  let n := s.node e
  let misses := min n.absentThreshold (n.missCount + 1)
  let next := n.afterMiss misses
  let s := s.setNode e { n with polled := false, missCount := misses, state := next }
  if next = n.state then s
  else
    let s := s.nodeChanged e
    if next = .absent then
      let s := s.nodeNotice e
      if n.inhibit then s.setCondition .nodeLost s.nodeLostLevel else s
    else s

end Sys2Proof.Machine
end

