-- ==== Sys2Proof/Machine/Operands.lean ====
section
/-! DEFINITION. The codes and layouts of 12_host_port_register_window_and_formats.md: argument registers,
staging layouts (R196), and the codes of registers, views and results (R191, R195, R197, R198). -/

namespace Sys2Proof.Machine

/-! ### Codes shown to the host -/

/-- Codes of RSLT (R191). -/
def ResultCode.code : ResultCode → Octet
  | .ok => 0x00
  | .empty => 0x01
  | .full => 0x02
  | .noRecord => 0x03
  | .held => 0x04
  | .notHeld => 0x05
  | .holdLimit => 0x06
  | .tagInUse => 0x07
  | .noTag => 0x08
  | .wrongState => 0x09
  | .portOff => 0x0A
  | .badArgument => 0x0B
  | .badCommand => 0x0C

/-- Codes of the record states in a view (R197). -/
def RecordState.code : RecordState → Octet
  | .live => 1
  | .stale => 2
  | .orphan => 3

/-- Codes of the notify policies (R196). -/
def Policy.code : Policy → Octet
  | .onChange => 0
  | .onUpdate => 1
  | .silent => 2

/-- Codes of the default action (R195). -/
def Action.code : Action → Octet
  | .discard => 0
  | .capture => 1

/-- Codes of the node states (R197). -/
def NodeState.code : NodeState → Octet
  | .vacant => 0
  | .disabled => 1
  | .probing => 2
  | .present => 3
  | .suspect => 4
  | .absent => 5

/-- Codes of the link states (R195). -/
def LinkState.code : LinkState → Octet
  | .disabled => 0
  | .searching => 1
  | .up => 2
  | .down => 3

/-- Codes of the ports (R196). -/
def portCode : Port → Octet
  | .A => 0
  | .B => 1

/-- Codes of the bit rates (R195). -/
def BitRate.code : BitRate → Octet
  | .k250 => 0
  | .m1 => 1
  | .m2 => 2
  | .m4 => 3

/-- Codes of the inhibit states (R195). -/
def InhibitState.code : InhibitState → Octet
  | .clear => 0
  | .asserted => 1
  | .releasing _ => 2
  | .awaitingAck => 3

/-- Codes of the release modes (R195). -/
def ReleaseMode.code : ReleaseMode → Octet
  | .auto => 0
  | .manual => 1

/-- Codes of the NAK reasons (R198, R199). -/
def NakReason.code : NakReason → Octet
  | .busy => 1
  | .unknownType => 2
  | .refused => 3

/-- Codes of the completion statuses (R198). -/
def Status.code : Status → Octet
  | .ok => 0
  | .nak _ => 1
  | .noReply => 2
  | .aborted => 3
  | .expired => 4
  | .nodeAbsent => 5
  | .flushed => 6

/-- The NAK reason octet of a completion: 0 unless the status is NAK (R150). -/
def Status.reasonCode : Status → Octet
  | .nak r => r.code
  | .ok | .noReply | .aborted | .expired | .nodeAbsent | .flushed => 0

/-! ### Codes read from the host -/

/-- A yes/no field; any other value is out of range (R196). -/
def yesNoOf (v : Octet) : Option Bool := if v = 0 then some false else if v = 1 then some true else none

/-- A port (R196). -/
def portOf (v : Octet) : Option Port := if v = 0 then some .A else if v = 1 then some .B else none

/-- A filter's port match (R196). -/
def portMatchOf (v : Octet) : Option PortMatch :=
  if v = 0 then some (.only .A) else if v = 1 then some (.only .B) else if v = 2 then some .either else none

/-- A filter's action, or DEFA (R59, R196). -/
def actionOf (v : Octet) : Option Action :=
  if v = 0 then some .discard else if v = 1 then some .capture else none

/-- A notify policy (R196). -/
def policyOf (v : Octet) : Option Policy :=
  if v = 0 then some .onChange else if v = 1 then some .onUpdate else if v = 2 then some .silent else none

/-- A bit rate of PCFA or PCFB (R195). -/
def bitRateOf (v : Octet) : Option BitRate :=
  if v = 0 then some .k250 else if v = 1 then some .m1 else if v = 2 then some .m2
  else if v = 3 then some .m4 else none

/-- A release mode of INHC (R172, R195). -/
def releaseModeOf (v : Octet) : Option ReleaseMode :=
  if v = 0 then some .auto else if v = 1 then some .manual else none

/-- A NAK reason (R199). -/
def nakReasonOf (v : Octet) : Option NakReason :=
  if v = 1 then some .busy else if v = 2 then some .unknownType else if v = 3 then some .refused else none

/-- A value kept when it lies in a range (R196). -/
def inRange (lo hi : Nat) (v : Octet) : Option Nat := if lo ≤ v.toNat ∧ v.toNat ≤ hi then some v.toNat else none

/-! ### Argument registers and staging area -/

/-- ARGi. -/
def State.arg (s : State) (i : Nat) : Octet := (s.args[i]?).getD 0

/-- Octet k of the staging area. -/
def State.stg (s : State) (k : Nat) : Octet := (s.staging[k]?).getD 0

/-- ARG0 as an index. -/
def State.arg0 (s : State) : Nat := (s.arg 0).toNat

/-- Request staging (R196) under the ranges of SUBMIT's first check (R139): the request record it makes
(R137), or `none` where a field is out of range. -/
def State.stagedRequest (s : State) : Option Request := do
  let port ← portOf (s.stg 1)
  let address ← inRange 1 63 (s.stg 2)
  let itemType ← inRange 1 127 (s.stg 3)
  let length ← inRange 0 24 (s.stg 4)
  let retryCount ← inRange 0 7 (s.stg 5)
  let gated ← yesNoOf (s.stg 7)
  return { tag := s.stg 0, port, address, itemType := BitVec.ofNat 7 itemType,
           payload := (s.staging.toList.drop 8).take length, retryCount, deadline := (s.stg 6).toNat, gated,
           state := .waiting, abortPending := false, attempts := 0 }

/-- Filter staging (R196) under the checks 2 to 4 of FILTER_SET: the filter that is stored, or `none` where
a field that is read is out of range (R66). -/
def State.stagedFilter (s : State) : Option Filter := do
  let enabled ← yesNoOf (s.stg 0)
  if enabled then
    let portMatch ← portMatchOf (s.stg 1)
    let addressLow ← inRange 1 62 (s.stg 2)
    let addressHigh ← inRange 1 62 (s.stg 3)
    let typeValue ← inRange 0 127 (s.stg 4)
    let typeMask ← inRange 0 127 (s.stg 5)
    let action ← actionOf (s.stg 6)
    let base : Filter :=
      { Filter.disabled with
        enabled := true, portMatch, addressLow, addressHigh, typeValue := BitVec.ofNat 7 typeValue,
        typeMask := BitVec.ofNat 7 typeMask, action }
    match action with
    | .discard => return base
    | .capture =>
      let policy ← policyOf (s.stg 7)
      let inhibit ← yesNoOf (s.stg 9)
      let pinOnAllocate ← yesNoOf (s.stg 10)
      return { base with policy, staleLimit := (s.stg 8).toNat, inhibit, pinOnAllocate }
  else return Filter.disabled

/-- Node staging (R196) under check 3 of NODE_SET: the entry that is stored, DISABLED with its dynamic
fields cleared (R117), or `none` where a field is out of range. -/
def State.stagedNode (s : State) : Option NodeEntry := do
  let port ← portOf (s.stg 0)
  let address ← inRange 1 62 (s.stg 1)
  let pollInterval ← inRange 1 255 (s.stg 2)
  let retryLimit ← inRange 0 7 (s.stg 3)
  let absentThreshold ← inRange 1 15 (s.stg 4)
  let inhibit ← yesNoOf (s.stg 5)
  return { NodeEntry.vacant with
           port, address, pollInterval, retryLimit, absentThreshold, inhibit, state := .disabled }

end Sys2Proof.Machine
end

