-- ==== Sys2Proof/Machine/Frames.lean ====
section
/-! DEFINITION. Fieldlane frames: the check sequence (R73), the octets of the frames the part sends (R74,
R99, R199), and the checks on a received frame (R76, R77). -/

namespace Sys2Proof.Machine

/-! ### The check sequence -/

/-- One bit through the check register (R73). -/
def crcBit (reg : Word16) (b : Bool) : Word16 :=
  if reg.msb != b then (reg <<< 1) ^^^ 0x1021 else reg <<< 1

/-- One octet, most significant bit first (R73). -/
def crcOctet (reg : Word16) (o : Octet) : Word16 :=
  [7, 6, 5, 4, 3, 2, 1, 0].foldl (fun r i => crcBit r (o.getLsbD i)) reg

/-- The check register after the octets, from its preset FFFFh (R73). -/
def crc (os : List Octet) : Word16 := os.foldl crcOctet 0xFFFF

/-! ### Frames the part sends -/

/-- The start delimiter (R199). -/
def startDelimiterOctet : Octet := 0xC5

/-- Kind code of POLL (R199). -/
def kindPoll : Octet := 0x01
/-- Kind code of DATA. -/
def kindData : Octet := 0x02
/-- Kind code of WRITE. -/
def kindWrite : Octet := 0x03
/-- Kind code of ACK. -/
def kindAck : Octet := 0x04
/-- Kind code of NAK. -/
def kindNak : Octet := 0x05

/-- A whole frame from its header fields and body, the check high octet first (R71, R73, R199). -/
def buildFrame (dest src : Nat) (kind : Octet) (repeatFlag : Bool) (seq : Octet) (body : List Octet) : List Octet :=
  let covered := [octetOf dest, octetOf src, kind ||| flagBit 7 repeatFlag, seq, octetOf body.length] ++ body
  startDelimiterOctet :: covered ++ [highOctet (crc covered), lowOctet (crc covered)]

/-- A POLL: empty body, the repeat flag on a retry (R72, R74, R99). -/
def pollFrame (dest : Nat) (retry : Bool) (seq : Octet) : List Octet := buildFrame dest 0 kindPoll retry seq []

/-- A WRITE: one item, repeat flag clear (R72, R74, R99). -/
def writeFrame (q : Request) (seq : Octet) : List Octet :=
  buildFrame q.address 0 kindWrite false seq
    ((q.itemType.setWidth 8) :: octetOf q.payload.length :: q.payload)

/-! ### Octets and frames on the line -/

/-- The levels of the line in the ten bit times of an octet: the start bit, the data bits least significant first,
the stop bit (R70). High is the idle level: PRESUMED, entry 19. -/
def octetLevels (o : Octet) : List Bool := false :: (List.range 8).map (fun k => o.getLsbD k) ++ [true]

/-- The levels of the line in the bit times of SENDING: 2 octet times of idle, then the frame, whose octets follow
each other without idle time (R70, R100). -/
def sendingLevels (frame : List Octet) : List Bool :=
  List.replicate Config.idleBits true ++ frame.flatMap octetLevels

/-- The octet of eight data bits in the order in which they were received (R70). -/
def octetOfLine (bits : List Bool) : Octet := bits.foldr (fun b o => (o <<< 1) ||| flagBit 0 b) 0

/-- Whether the octets taken after the start delimiter end the frame: it is complete, or its body length is above
96 (R76). -/
def frameEnded (octets : List Octet) : Bool :=
  octets[4]?.any fun len => decide (96 < len.toNat) || decide (len.toNat + 7 ≤ octets.length)

/-! ### Received frames -/

/-- One item of a DATA frame (R72). -/
structure Item where
  itemType : ItemType
  payload : List Octet
deriving DecidableEq, Repr

/-- The body of a frame that passed the checks, by its kind (R72, R77). -/
inductive RxBody where
  | data (items : List Item)
  | ack (itemType : ItemType)
  | nak (itemType : ItemType) (reason : NakReason)
deriving DecidableEq, Repr

/-- What is handed to the sequencer of a frame that passed every check (R77). -/
structure RxFrame where
  source : Nat
  sequence : Octet
  body : RxBody
deriving DecidableEq, Repr

/-- The class of a received frame (R77). -/
inductive RxClass where
  | format
  | crc
  | foreign
  | valid (f : RxFrame)
deriving DecidableEq, Repr

/-- The items of a DATA body after its item count: each length at most 24, and the octets used up exactly
by `count` items (R77, check 1). -/
def walkItems : Nat → List Octet → Option (List Item)
  | 0, [] => some []
  | 0, _ :: _ => none
  | count + 1, t :: len :: rest =>
    if len.toNat ≤ 24 ∧ len.toNat ≤ rest.length then
      (walkItems count (rest.drop len.toNat)).map (⟨t.truncate 7, rest.take len.toNat⟩ :: ·)
    else none
  | _ + 1, _ => none

/-- Bits 5 to 0 of an address octet (R199). -/
def addressBits (o : Octet) : Nat := (o &&& 0x3F).toNat

/-- Bits 3 to 0 of the kind octet (R199). -/
def kindBits (o : Octet) : Octet := o &&& 0x0F

/-- The item types of a DATA frame: 1 to 4 items, no type 0, none twice (R77, check 4). -/
def itemsOk (count : Nat) (items : List Item) : Bool :=
  decide (1 ≤ count) && decide (count ≤ 4) && (items.all fun i => i.itemType ≠ 0) &&
    decide (items.map Item.itemType).Nodup

/-- The checks of R77 on a frame whose body length octets have all been taken: `covered` is header and body,
`check` the two check octets. -/
def classifyComplete (dest src kind seq : Octet) (body covered check : List Octet) : RxClass :=
  let passed : Bool := crc (covered ++ check) = 0
  let sourceOk : Bool := decide (1 ≤ addressBits src) && decide (addressBits src ≤ 62)
  let here (ok : Bool) (b : RxBody) : RxClass :=
    if !passed then .crc
    else if !(ok && sourceOk) then .format
    else if addressBits dest ≠ 0 then .foreign
    else .valid ⟨addressBits src, seq, b⟩
  if kindBits kind = kindData then
    match body with
    | [] => .format
    | count :: rest =>
      match walkItems count.toNat rest with
      | none => .format
      | some items => here (itemsOk count.toNat items) (.data items)
  else if kindBits kind = kindAck then
    match body with
    | [t] => here (decide (t.truncate 7 ≠ (0 : ItemType))) (.ack (t.truncate 7))
    | _ => .format
  else if kindBits kind = kindNak then
    match body with
    | [t, r] =>
      match nakReasonOf r with
      | some reason => here (decide (t.truncate 7 ≠ (0 : ItemType))) (.nak (t.truncate 7) reason)
      | none => if passed then .format else .crc
    | _ => .format
  else if passed then .format else .crc

/-- The class of a frame from the octets taken after its start delimiter. A frame that ended before it was
complete, or whose body length is above 96, is cut short and so FORMAT (R76, R77). -/
def classify (octets : List Octet) : RxClass :=
  match octets with
  | dest :: src :: kind :: seq :: len :: rest =>
    if len.toNat > 96 ∨ rest.length < len.toNat + 2 then .format
    else
      classifyComplete dest src kind seq (rest.take len.toNat)
        ([dest, src, kind, seq, len] ++ rest.take len.toNat) ((rest.drop len.toNat).take 2)
  | _ => .format

end Sys2Proof.Machine
end

