-- ==== Sys2Proof/Machine/Arbiter.lean ====
section
/-! DEFINITION. The arbiter of a port and the reporting of failed transactions (06), and the reports to the
inhibit unit whose deassertion of INH starts the arbiters (R96, R142, R177). -/

namespace Sys2Proof.Machine

/-! ### Failed outcomes -/

/-- Whether the transaction is a poll cycle (R95). -/
def Transaction.isPoll (t : Transaction) : Bool := decide (t.work = .poll)

/-- Whether the host has asked to abort the request in flight (R145). -/
def State.abortPending (s : State) (t : Transaction) : Bool :=
  match t.work with
  | .poll => false
  | .request tag _ => (s.requestOf tag).any Request.abortPending

/-- A failed poll cycle reaches its entry (R123, R124). -/
def State.pollFailed (s : State) (e : Nat) (firstInDown : Bool) : State :=
  if firstInDown then s.modNode e fun n => { n with polled := false } else s.nodeMiss e

/-- The transaction record is discarded (R108). -/
def State.dropTransaction (s : State) (p : Port) : State := s.modPort p fun ps => { ps with transaction := none }

/-- A transaction is reported as failed (R109, R110): a poll to its entry, unless the cycle was detached; a
request as NO_REPLY, or as ABORTED with abort pending (R141). -/
def State.reportFailed (s : State) (p : Port) (t : Transaction) : State :=
  let s := s.dropTransaction p
  match t.work with
  | .poll =>
    match t.entry with
    | some e => if t.entryLost then s else s.pollFailed e t.firstInDown
    | none => s
  | .request tag _ =>
    match s.requestOf tag with
    | some q => s.complete q (if q.abortPending then .aborted else .noReply)
    | none => s

/-! ### Granting (R97 to R99, R107) -/

/-- Whether a pending retry is dropped at its grant (R107). -/
def State.retryDropped (s : State) (p : Port) (t : Transaction) : Bool :=
  s.abortPending t || t.entryLost || (t.isPoll && decide ((s.port p).link = .down))

/-- The frame of an attempt, with the port's transmit count (R99). -/
def State.attemptFrame (s : State) (p : Port) (t : Transaction) (made : Nat) : List Octet :=
  match t.work with
  | .poll => pollFrame (t.awaited.getD 0) (decide (1 < made)) (s.port p).transmitCount
  | .request tag _ =>
    match s.requestOf tag with
    | some q => writeFrame q (s.port p).transmitCount
    | none => []

/-- An attempt is started (R99, steps 2 to 5): attempts made rises, TMO is read, the attempt is marked not
heard unless it is a broadcast, the frame takes the transmit count, and the sequencer enters SENDING. A frame
being received at that moment is cut off and counted stray; until driver enable is released the receive pin is
ignored, and the line then counts as idle from that moment (R76). -/
def State.startAttempt (s : State) (p : Port) (t : Transaction) : State :=
  let made := t.made + 1
  let frame := s.attemptFrame p t made
  let s := match t.work with
    | .poll => s
    | .request tag _ => s.modRequest tag fun q => { q with state := .inFlight, attempts := made }
  s.modPort p fun ps =>
    { ps with
      transaction := some { t with made, retryPending := false }
      heard := if t.awaited.isSome then false else ps.heard
      transmitCount := ps.transmitCount + 1
      counters := if ps.deframer = .hunting then ps.counters
        else { ps.counters with stray := satInc Config.count16Max ps.counters.stray }
      deframer := .hunting
      receiver := .fresh
      sequencer := .sending frame s.tmo (sendingTicks ps.lineRate frame) }

/-- The first attempt of a poll cycle is granted (R99). -/
def State.grantPoll (s : State) (p : Port) (e : Nat) : State :=
  let n := s.node e
  let s := s.modNode e fun n => { n with polled := true }
  let s := s.modPort p fun ps => { ps with dueList := ps.dueList.erase e, lastGrant := .poll }
  s.startAttempt p
    { work := .poll, entry := some e, awaited := some n.address, allowed := 1 + n.retryLimit, made := 0,
      firstInDown := decide ((s.port p).link = .down), retryPending := false, entryLost := false }

/-- Node address 63, valid for WRITE only (R71). -/
def broadcastAddress : Nat := 63

/-- A request addressed to every node (R98). -/
def Request.isBroadcast (q : Request) : Bool := decide (q.address = broadcastAddress)

/-- The first attempt of a request is granted (R99); a broadcast is allowed one attempt (R101). -/
def State.grantRequest (s : State) (p : Port) (q : Request) : State :=
  let entry := if q.isBroadcast then none else s.findNode p q.address
  let s := s.modPort p fun ps => { ps with lastGrant := .request }
  s.startAttempt p
    { work := .request q.tag q.itemType, entry, awaited := if q.isBroadcast then none else some q.address,
      allowed := if q.isBroadcast then 1 else 1 + q.retryCount, made := 0,
      firstInDown := decide ((s.port p).link = .down), retryPending := false, entryLost := false }

/-- Whether a unicast request's target can be sent to: its entry exists and is PROBING, PRESENT or SUSPECT
(R98). -/
def State.targetReachable (s : State) (p : Port) (address : Nat) : Bool :=
  match s.findNode p address with
  | none => false
  | some e => (s.node e).state.enabled && decide ((s.node e).state ≠ .absent)

/-- The request candidate, searched among the WAITING requests of the port in submission order; requests to
targets that cannot be reached complete with NODE_ABSENT on the way (R98). -/
def State.requestCandidate (s : State) (p : Port) : List Request → State × Option Request
  | [] => (s, none)
  | q :: qs =>
    if q.gated && s.inhAsserted then (s, none)
    else if q.isBroadcast || s.targetReachable p q.address then (s, some q)
    else (s.complete q .nodeAbsent).requestCandidate p qs

/-- The WAITING requests of a port, oldest first. -/
def State.waitingOf (s : State) (p : Port) : List Request :=
  s.requests.filter fun q => q.port = p && q.state = .waiting

/-- The choice between poll and request candidates (R97, steps 2 to 5). -/
def State.grantFirst (s : State) (p : Port) : State :=
  let found := s.requestCandidate p (s.waitingOf p)
  let s := found.1
  match (s.port p).dueList.head?, found.2 with
  | some e, some q =>
    match (s.port p).lastGrant with
    | .poll => s.grantRequest p q
    | .request => s.grantPoll p e
  | some e, none => s.grantPoll p e
  | none, some q => s.grantRequest p q
  | none, none => s

/-- The arbiter of a port evaluates its candidates, while its sequencer is IDLE and the port is enabled: a
pending retry first (R97, R107), else the first attempts; none while a transaction is in flight (R94). -/
def State.evaluate (s : State) (p : Port) : State :=
  if (s.port p).enabled && (s.port p).isIdle then
    match (s.port p).transaction with
    | none => s.grantFirst p
    | some t =>
      if t.retryPending then
        if s.retryDropped p t then (s.reportFailed p t).grantFirst p else s.startAttempt p t
      else s
  else s

/-- The arbiters of the named ports evaluate. Where one event starts both, the spec gives no order between
them: a free value decides (entry 5). -/
def State.evaluatePorts (s : State) (ps : List Port) : State :=
  match ps with
  | [p, q] =>
    let t := { s with choices := s.choices + 1 }
    if Config.freeChoice s.choices % 2 = 0 then (t.evaluate p).evaluate q else (t.evaluate q).evaluate p
  | _ => ps.foldl State.evaluate s

/-- INH has been deasserted: the arbiter of each IDLE enabled port whose oldest WAITING request is
inhibit-gated evaluates (R96, R142, R177). -/
def State.evaluateGated (s : State) : State :=
  s.evaluatePorts ([Port.A, Port.B].filter fun p =>
    (s.port p).enabled && (s.port p).isIdle && (s.oldestWaiting p).any Request.gated)

/-- `after` is what an event of the inhibit unit made of `before`: where INH fell, the arbiters act on it at
once. -/
def afterInhibit (before after : State) : State :=
  if before.inhAsserted && !after.inhAsserted then after.evaluateGated else after

/-- A report to the inhibit unit, with what a fall of INH starts (R165). -/
def State.report (s : State) (c : Condition) (on : Bool) : State := afterInhibit s (s.setCondition c on)

/-- DATA_STALE is re-evaluated and reported (R24). -/
def State.reportDataStale (s : State) : State := s.report .dataStale s.dataStaleLevel

/-- NODE_LOST is re-evaluated and reported (R133). -/
def State.reportNodeLost (s : State) : State := s.report .nodeLost s.nodeLostLevel

end Sys2Proof.Machine
end

