-- ==== Sys2Proof/Machine/Capture.lean ====
section
/-! DEFINITION. From the items of a taken DATA frame to the records: classification by the filter list (04)
and the arrival of a captured item (01). -/

namespace Sys2Proof.Machine

/-! ### Classification -/

/-- What the deciding filter, or the default action, hands to the capture table (R63). -/
structure ItemAttributes where
  filterIndex : Nat
  policy : Policy
  staleLimit : Nat
  inhibit : Bool
  pinOnAllocate : Bool
deriving DecidableEq, Repr

/-- The port test of a filter (R61). -/
def PortMatch.accepts : PortMatch → Port → Bool
  | .either, _ => true
  | .only q, p => decide (q = p)

/-- An enabled filter matches an item: port, address and type tests (R61). -/
def Filter.accepts (f : Filter) (p : Port) (address : Nat) (t : ItemType) : Bool :=
  f.enabled && f.portMatch.accepts p && decide (f.addressLow ≤ address) && decide (address ≤ f.addressHigh) &&
    decide (t &&& f.typeMask = f.typeValue &&& f.typeMask)

/-- The filter that decides an item: the first enabled one that matches (R62). -/
def State.decidingFilter (s : State) (p : Port) (address : Nat) (t : ItemType) : Option Nat :=
  (List.range Config.filterCount).find? fun i => (s.filter i).accepts p address t

/-- The attributes of a capture by the default action (R59). -/
def defaultAttributes : ItemAttributes :=
  { filterIndex := 16, policy := .onChange, staleLimit := 0, inhibit := false, pinOnAllocate := false }

/-- The decision on an item: `none` is DISCARD (R62, R63). -/
def State.classifyItem (s : State) (p : Port) (address : Nat) (t : ItemType) : Option ItemAttributes :=
  match s.decidingFilter p address t with
  | some i =>
    let f := s.filter i
    match f.action with
    | .discard => none
    | .capture =>
      some { filterIndex := i, policy := f.policy, staleLimit := f.staleLimit, inhibit := f.inhibit,
             pinOnAllocate := f.pinOnAllocate }
  | none =>
    match s.defa with
    | .discard => none
    | .capture => some defaultAttributes

/-! ### Arrival -/

/-- The record an allocation makes (R5). -/
def newRecord (e : Nat) (item : Item) (seq : Octet) (a : ItemAttributes) : Record :=
  { entry := e, itemType := item.itemType, state := .live, payload := item.payload, sequence := seq, age := 0,
    updateCount := 1, filterIndex := a.filterIndex, policy := a.policy, staleLimit := a.staleLimit,
    inhibit := a.inhibit, pinned := a.pinOnAllocate, held := false, shadow := none, queued := false }

/-- The attributes an arrival copies and the age it sets (R9 steps 1 and 2, R11). -/
def Record.attributed (rec : Record) (a : ItemAttributes) : Record :=
  { rec with filterIndex := a.filterIndex, policy := a.policy, staleLimit := a.staleLimit, inhibit := a.inhibit,
             age := 0, state := .live }

/-- The cause of an arrival that finds the record STALE or ORPHAN (R9, R11). -/
def Record.revival (rec : Record) : BitVec 5 := if rec.state = .live then 0 else causeRevived

/-- An item for which there is neither a FREE record nor a victim (R8). -/
def State.dropItem (s : State) : State :=
  ({ s with drops := satInc Config.count16Max s.drops }.raise eventTableFull).setCondition .tableFull true

/-- Eviction of a victim for a new record (R7). -/
def State.evict (s : State) (r : Nat) (rec : Record) : State :=
  let victimInhibits := (s.record r).any Record.inhibit
  let s := s.unqueue r
  let s := { s with evictions := satInc Config.count16Max s.evictions }
  let s := (s.setRecord r (some rec)).notify r causeNew
  if victimInhibits then s.reportDataStale else s

/-- Allocation: the lowest FREE record, else a victim, else the item is dropped (R5). -/
def State.allocate (s : State) (rec : Record) : State :=
  match s.freeIndex with
  | some r => (s.setRecord r (some rec)).notify r causeNew
  | none =>
    match s.victim with
    | some r => s.evict r rec
    | none => s.dropItem

/-- An arrival for a record that is not held (R9, R10). -/
def State.updateRecord (s : State) (r : Nat) (rec : Record) (item : Item) (seq : Octet) (a : ItemAttributes) : State :=
  let out := { rec.attributed a with sequence := seq : Record }.takePayload item.payload
  let s := (s.setRecord r (some out.1)).notify r (rec.revival ||| out.2)
  if rec.state = .live then s else s.reportDataStale

/-- An arrival for a held record: the state side changes, the payload side waits in the shadow (R11). -/
def State.shadowRecord (s : State) (r : Nat) (rec : Record) (item : Item) (seq : Octet) (a : ItemAttributes) : State :=
  let s := { s with
    shadowOverwrites := if rec.shadow.isSome then satInc Config.count16Max s.shadowOverwrites else s.shadowOverwrites }
  let s := (s.setRecord r (some { rec.attributed a with shadow := some ⟨item.payload, seq⟩ })).notify r rec.revival
  if rec.state = .live then s else s.reportDataStale

/-- One arrival, handled whole (R4). -/
def State.arrive (s : State) (e : Nat) (item : Item) (seq : Octet) (a : ItemAttributes) : State :=
  match s.findRecord e item.itemType with
  | none => s.allocate (newRecord e item seq a)
  | some r =>
    match s.record r with
    | none => s
    | some rec => if rec.held then s.shadowRecord r rec item seq a else s.updateRecord r rec item seq a

/-- A discarded item is counted and nothing else (R64, R65). -/
def State.discardItem (s : State) (p : Port) : State :=
  s.modCounters p fun c => { c with discarded := satInc Config.count16Max c.discarded }

/-- One item of a taken frame: classified, then captured or discarded (R60, R63, R64). -/
def State.takeItem (e : Nat) (seq : Octet) (s : State) (item : Item) : State :=
  let n := s.node e
  match s.classifyItem n.port n.address item.itemType with
  | some a => s.arrive e item seq a
  | none => s.discardItem n.port

/-! ### A DATA frame at the node table -/

/-- What the sequence check makes of an entry, and whether it takes the frame (R122): a frame that a node sends again
without being asked to is a duplicate (R75). -/
def NodeEntry.checkSequence (n : NodeEntry) (seq : Octet) : NodeEntry × Bool :=
  match n.lastSequence with
  | none => ({ n with lastSequence := some seq }, true)
  | some prev =>
    if seq = prev then ({ n with duplicates := satInc Config.count8Max n.duplicates }, false)
    else if seq = prev + 1 then ({ n with lastSequence := some seq }, true)
    else ({ n with lastSequence := some seq, gaps := satInc Config.count8Max n.gaps }, true)

/-- A successful outcome for the entry that is being polled (R121). -/
def State.nodeSuccess (s : State) (e : Nat) (seq : Octet) (items : List Item) : State :=
  let n := s.node e
  let s := s.setNode e { n with polled := false, missCount := 0, state := .present }
  let s := if n.state = .present then s else s.nodeChanged e
  let s := if n.state = .absent ∧ n.inhibit = true then s.reportNodeLost else s
  let checked := (s.node e).checkSequence seq
  let s := s.setNode e checked.1
  if checked.2 then items.foldl (State.takeItem e seq) s else s

/-- A successful outcome of a detached cycle: its items are counted as unknown source (R124). -/
def State.detachedSuccess (s : State) (p : Port) (items : List Item) : State :=
  s.modCounters p fun c => { c with unknownSource := satAdd Config.count16Max c.unknownSource items.length }

/-- A late notice reaches the non-VACANT entry with the port and address, if there is one (R104, R128). -/
def State.lateNotice (s : State) (p : Port) (address : Nat) : State :=
  match s.findNode p address with
  | some e => s.modNode e fun n => { n with lates := satInc Config.count8Max n.lates }
  | none => s

/-! ### Falling due (R130) -/

/-- An entry falls due: it joins the tail of its port's due list, or slips when it is listed or being
polled; its countdown is reloaded either way. A join on an IDLE enabled port is evaluated at once (R96). -/
def State.fallDue (s : State) (e : Nat) : State :=
  let n := s.node e
  if n.polled || (s.port n.port).dueList.contains e then
    (s.setNode e { n with slips := satInc Config.count8Max n.slips, countdown := n.pollInterval }).raise eventSlip
  else
    let s := s.setNode e { n with countdown := n.pollInterval }
    let s := s.modPort n.port fun ps => { ps with dueList := ps.dueList ++ [e] }
    s.evaluate n.port

end Sys2Proof.Machine
end

