-- ==== Sys2Proof/Machine/Line.lean ====
section
/-! DEFINITION. The events of a Fieldlane port: frames received, transmit completion, response timeout,
quiet interval, grants (05, 06). -/

namespace Sys2Proof.Machine

/-- What one command answers. -/
abbrev Answer := Host.Outcome State Fault Refusal

/-! ### Silence and link state -/

/-- The port hears the line: the silence counter goes to 0, a SEARCHING or DOWN port goes UP, and the current
attempt is marked heard (R78, R83, R91). -/
def State.hear (s : State) (p : Port) : State :=
  let ps := s.port p
  let s := s.setPort p
    { ps with
      silence := 0
      heard := ps.isSending || ps.isAwaiting || ps.heard
      link := if ps.link = .searching ∨ ps.link = .down then .up else ps.link }
  let s := if ps.link = .searching ∨ ps.link = .down then s.raise eventPort else s
  if ps.link = .down then s.report (portDown p) false else s

/-- At the end of a counted attempt: when it was not heard, the silence counter rises and the port may go
DOWN (R82). -/
def State.silenceUpdate (s : State) (p : Port) : State :=
  let ps := s.port p
  if ps.heard then s
  else
    let silence := satInc Config.silenceMax ps.silence
    if s.silim.toNat ≤ silence ∧ (ps.link = .searching ∨ ps.link = .up) then
      ((s.setPort p { ps with silence, link := .down }).raise eventPort).setCondition (portDown p) true
    else s.setPort p { ps with silence }

/-! ### The end of an attempt (R102, R106, R108) -/

/-- Whether a failed attempt leaves a retry pending (R106). -/
def State.retryAllowed (s : State) (t : Transaction) : Bool :=
  decide (t.made < t.allowed) && !s.abortPending t && !t.entryLost && !(t.isPoll && t.firstInDown)

/-- An attempt ends failed: silence and link state, then retry or report, then QUIET (R106, R108). -/
def State.failAttempt (s : State) (p : Port) (t : Transaction) : State :=
  let s := s.silenceUpdate p
  let s :=
    if s.retryAllowed t then s.modPort p fun ps => { ps with transaction := some { t with retryPending := true } }
    else s.reportFailed p t
  s.enterQuiet p t.awaited

/-- A poll attempt ends with its DATA reply (R102, R109). -/
def State.pollReplied (s : State) (p : Port) (t : Transaction) (seq : Octet) (items : List Item) : State :=
  let s := (s.silenceUpdate p).dropTransaction p
  let s :=
    match t.entry with
    | some e => if t.entryLost then s.detachedSuccess p items else s.nodeSuccess e seq items
    | none => s
  s.enterQuiet p t.awaited

/-- A request attempt ends with its ACK or NAK (R102, R110). -/
def State.requestReplied (s : State) (p : Port) (t : Transaction) (tag : Octet) (status : Status) : State :=
  let s := (s.silenceUpdate p).dropTransaction p
  let s :=
    match s.requestOf tag with
    | some q => s.complete q status
    | none => s
  s.enterQuiet p t.awaited

/-! ### A frame handed to the sequencer -/

/-- The format errors counter, and LINK_ERROR (R79, R91). -/
def State.formatError (s : State) (p : Port) : State :=
  (s.modCounters p fun c => { c with formatErrors := satInc Config.count16Max c.formatErrors }).raise eventLinkError

/-- The stray counter (R79, R104). -/
def State.strayFrame (s : State) (p : Port) : State :=
  s.modCounters p fun c => { c with stray := satInc Config.count16Max c.stray }

/-- The awaited node has answered with something else, which R75 forbids it: MISMATCH (R102). -/
def State.mismatch (s : State) (p : Port) (t : Transaction) : State := (s.formatError p).failAttempt p t

/-- A valid frame in AWAITING (R102): the answer that R75 asks of the awaited node, another answer of that node,
or a frame of another node, which is stray. -/
def State.frameAwaited (s : State) (p : Port) (t : Transaction) (f : RxFrame) : State :=
  if t.awaited = some f.source then
    match t.work, f.body with
    | .poll, .data items => s.pollReplied p t f.sequence items
    | .request tag itemType, .ack x => if x = itemType then s.requestReplied p t tag .ok else s.mismatch p t
    | .request tag itemType, .nak x reason =>
      if x = itemType then s.requestReplied p t tag (.nak reason) else s.mismatch p t
    | .poll, .ack _ => s.mismatch p t
    | .poll, .nak _ _ => s.mismatch p t
    | .request _ _, .data _ => s.mismatch p t
  else s.strayFrame p

/-- A valid frame in QUIET: LATE from the awaited address of the attempt just ended, as R75 says of a node that
answers late, else STRAY (R104). -/
def State.frameQuiet (s : State) (p : Port) (awaited : Option Nat) (f : RxFrame) : State :=
  if awaited = some f.source then
    (s.modCounters p fun c => { c with late := satInc Config.count16Max c.late }).lateNotice p f.source
  else s.strayFrame p

/-- A valid frame with destination 0 is handed to the sequencer, which takes it in the state `sq` it had when
the frame was complete (R102, R104; entry 8). -/
def State.frameHandedOn (s : State) (p : Port) (sq : Sequencer) (f : RxFrame) : State :=
  match sq with
  | .awaiting _ =>
    match (s.port p).transaction with
    | some t => s.frameAwaited p t f
    | none => s.strayFrame p
  | .quiet awaited _ => s.frameQuiet p awaited f
  | .idle => s.strayFrame p
  | .sending _ _ _ => s

/-- A frame of class CRC at the counters and the CRC-burst detector (R79, R89). -/
def State.crcError (s : State) (p : Port) : State :=
  let s := s.modCounters p fun c => { c with crcErrors := satInc Config.count16Max c.crcErrors }
  let s := s.modPort p fun ps => { ps with windowCrc := satInc Config.count8Max ps.windowCrc }
  let ps := s.port p
  if s.crct.toNat ≤ ps.windowCrc ∧ ps.fired = false then
    ((s.setPort p { ps with fired := true }).setCondition .linkErrors true).raise eventLinkError
  else s

/-- A corrupt-frame notice: it ends an attempt that is awaiting its reply (R102, R104). -/
def State.corruptNotice (s : State) (p : Port) : State :=
  match (s.port p).sequencer, (s.port p).transaction with
  | .awaiting _, some t => s.failAttempt p t
  | _, _ => s

/-- A received frame of a class: counted, heard and handed on (R77, R78). A CRC frame that both fires the burst
detector (R89) and ends an attempt (R102) reports LINK_ERRORS before what the end of the attempt reports (PORT_x_DOWN,
R82, and the outcome); R165 gives no order of these owners: DESIGN CHOICE, entry 20. -/
def State.frameClassified (s : State) (p : Port) (c : RxClass) : State :=
  match c with
  | .format => s.formatError p
  | .crc => (s.crcError p).corruptNotice p
  | .foreign => (s.modCounters p fun c => { c with foreign := satInc Config.count16Max c.foreign }).hear p
  | .valid f => (s.hear p).frameHandedOn p (s.port p).sequencer f

/-- Whether the deframer of a port listens: the port is enabled and its driver enable is not asserted (R76). -/
def PortState.listening (ps : PortState) : Bool := ps.enabled && !ps.isSending

/-! ### The rows -/

/-- START_DELIMITER: the hunting deframer begins to receive a frame (R76). The delimiter has just been taken, so
the line has not been idle since. -/
def execStartDelimiter (p : Port) (s : State) : Answer :=
  .next
    (if (s.port p).listening ∧ (s.port p).deframer = .hunting then
      s.modPort p fun ps => { ps with deframer := .receiving [], receiver := .fresh }
    else s)

/-- FRAME_RECEIVED: the frame being received has ended, and is checked, counted and handed on; the deframer
returns to hunting (R76, R77). Octets outside a frame are discarded without count. -/
def execFrameReceived (p : Port) (octets : List Octet) (s : State) : Answer :=
  .next
    (if (s.port p).listening ∧ (s.port p).deframer ≠ .hunting then
      (s.modPort p fun ps => { ps with deframer := .hunting }).frameClassified p (classify octets)
    else s)

/-- GRANT: the arbiter evaluates (R97, R98, R99, R107). Every event that starts an evaluation by R96 has it
made within its own step, so that from reset this row finds nothing left to grant (entry 4). -/
def execGrant (p : Port) (s : State) : Answer := .next (s.evaluate p)

/-- Transmit completion: AWAITING with the response timeout read at the grant, or, after a broadcast, the
outcome OK and QUIET (R100, R101). -/
def State.transmitted (s : State) (p : Port) : State :=
  match (s.port p).sequencer, (s.port p).transaction with
  | .sending _ tmo _, some t =>
    match t.awaited, t.work with
    | none, .request tag _ =>
      let s := s.dropTransaction p
      let s :=
        match s.requestOf tag with
        | some q => s.complete q .ok
        | none => s
      s.enterQuiet p none
    | _, _ => s.modPort p fun ps => { ps with sequencer := .awaiting (tmo.toNat * Config.ticksPerTenMicros) }
  | _, _ => s

/-- TRANSMIT_COMPLETION (R100). -/
def execTransmitCompletion (p : Port) (s : State) : Answer := .next (s.transmitted p)

/-- The response timeout expires in AWAITING: the attempt fails with NO_REPLY (R103). -/
def State.timedOut (s : State) (p : Port) : State :=
  match (s.port p).sequencer, (s.port p).transaction with
  | .awaiting _, some t =>
    (s.modCounters p fun c => { c with noReply := satInc Config.count16Max c.noReply }).failAttempt p t
  | _, _ => s

/-- RESPONSE_TIMEOUT_EXPIRY (R103). -/
def execResponseTimeoutExpiry (p : Port) (s : State) : Answer := .next (s.timedOut p)

/-- The quiet interval ends: IDLE, and the arbiter evaluates at once on an enabled port (R105). -/
def State.quietEnded (s : State) (p : Port) : State :=
  match (s.port p).sequencer with
  | .quiet _ _ => (s.modPort p fun ps => { ps with sequencer := .idle }).evaluate p
  | .idle | .sending _ _ _ | .awaiting _ => s

/-- QUIET_INTERVAL_EXPIRY (R105). -/
def execQuietIntervalExpiry (p : Port) (s : State) : Answer := .next (s.quietEnded p)

end Sys2Proof.Machine
end

