-- ==== Sys2Proof/Machine/Time.lean ====
section
/-! DEFINITION. The epoch timer (09), each block's handling of the epoch mark, and what passes on an empty
queue. -/

namespace Sys2Proof.Machine

/-! ### The capture table at a mark (R13, R14) -/

/-- Ageing (R13). -/
def Record.aged (rec : Record) : Record := { rec with age := satInc Config.count8Max rec.age }

/-- Every in-use record is aged (R13). -/
def State.ageRecords (s : State) : State :=
  { s with records := s.records.mapIdx fun _ o => o.map Record.aged }

/-- A LIVE record whose age has reached its nonzero stale limit (R14). -/
def Record.goesStale (rec : Record) : Bool :=
  decide (rec.state = .live) && decide (rec.staleLimit ≠ 0) && decide (rec.staleLimit ≤ rec.age)

/-- One aged record: it becomes STALE at its limit (R14). -/
def State.staleRecord (s : State) (r : Nat) : State :=
  match s.record r with
  | none => s
  | some rec =>
    if rec.goesStale then
      let s := (s.setRecord r (some { rec with state := .stale })).notify r causeStale
      if rec.inhibit then s.reportDataStale else s
    else s

/-- The capture table takes the mark (R13, R14, R31). -/
def State.markCaptureTable (s : State) : State := recordIndices.foldl State.staleRecord s.ageRecords

/-! ### The record access unit at a mark (R52) -/

/-- One hold that has reached HLIM expires (R52). -/
def State.expireHold (s : State) (r : Nat) : State := (s.endHold r).raise eventHoldExpired

/-- The held records whose hold age has reached HLIM, in list order; none when HLIM is 0 (R52). -/
def State.expiringHolds (s : State) : List Nat :=
  if s.hlim = 0 then [] else (s.holds.filter fun h => s.hlim.toNat ≤ h.age).map Hold.record

/-- A hold ages (R52). -/
def Hold.aged (h : Hold) : Hold := { h with age := satInc Config.count8Max h.age }

/-- The record access unit takes the mark (R52). -/
def State.markRecordAccess (s : State) : State :=
  let s := { s with holds := s.holds.map Hold.aged }
  s.expiringHolds.foldl State.expireHold s

/-! ### The node table at a mark (R130) -/

/-- One entry counts its due countdown, and may fall due (R130). -/
def State.countEntry (s : State) (e : Nat) : State :=
  let n := s.node e
  if n.state.enabled && (s.port n.port).enabled then
    if n.countdown ≤ 1 then s.fallDue e else s.setNode e { n with countdown := n.countdown - 1 }
  else s

/-- The node table takes the mark (R130). -/
def State.markNodeTable (s : State) : State := nodeIndices.foldl State.countEntry s

/-! ### The request pool at a mark (R143) -/

/-- A request's deadline counts while it is WAITING and above 0 (R143). -/
def Request.counted (q : Request) : Request :=
  if q.state = .waiting then { q with deadline := q.deadline - 1 } else q

/-- A request that expires at this mark (R143). -/
def Request.expires (q : Request) : Bool := decide (q.state = .waiting) && decide (q.deadline = 1)

/-- The request pool takes the mark: deadlines are counted, expired requests complete in submission order,
then the arbiter of each IDLE port that lost its oldest WAITING request evaluates (R96, R143). -/
def State.markRequestPool (s : State) : State :=
  let lost := [Port.A, Port.B].filter fun p =>
    (s.port p).enabled && (s.port p).isIdle && (s.oldestWaiting p).any Request.expires
  let expired := s.requests.filter Request.expires
  let s := { s with requests := s.requests.map Request.counted }
  (expired.foldl (fun s q => s.complete q .expired) s).evaluatePorts lost

/-! ### A port's CRC-burst detector at a mark (R89) -/

/-- The CRC-burst window of an enabled port advances, and ends at CRCW (R89). -/
def State.markCrcWindow (s : State) (p : Port) : State :=
  let ps := s.port p
  if ps.enabled then
    if s.crcw.toNat ≤ ps.windowEpochs + 1 then
      s.setPort p { ps with windowEpochs := 0, windowCrc := 0, fired := false }
    else s.setPort p { ps with windowEpochs := ps.windowEpochs + 1 }
  else s

/-! ### The inhibit unit at a mark (R173) -/

/-- The countdown of RELEASING (R173). -/
def State.markInhibitUnit (s : State) : State :=
  match s.inh.state with
  | .releasing n =>
    if n ≤ 1 then afterInhibit s s.inhRelease
    else { s with inh := { s.inh with state := .releasing (n - 1) } }
  | .clear | .asserted | .awaitingAck => s

/-! ### Delivery of a mark (entry 2) -/

/-- What one block does with the mark (09, "Where the epoch mark goes"). -/
def State.handleMark (s : State) : MarkBlock → State
  | .captureTable => s.markCaptureTable
  | .recordAccess => s.markRecordAccess
  | .nodeTable => s.markNodeTable
  | .requestPool => s.markRequestPool
  | .crcWindow p => s.markCrcWindow p
  | .inhibitUnit => s.markInhibitUnit

/-- A block takes the mark when one is outstanding for it, and else does nothing (entry 3). -/
def State.deliver (s : State) (b : MarkBlock) : State :=
  if s.marks.contains b then { s with marks := s.marks.erase b : State }.handleMark b else s

/-- A block takes an outstanding mark, the capture table always before the record access unit (R52). -/
def State.takeMark (s : State) (b : MarkBlock) : State :=
  if b = .recordAccess then (s.deliver .captureTable).deliver .recordAccess else s.deliver b

/-- Several blocks take the mark, in order. -/
def State.takeMarks (s : State) (bs : List MarkBlock) : State := bs.foldl State.takeMark s

/-! ### The boundary -/

/-- The timer at a boundary: the count rises, a pending period is applied, a new epoch begins (R158). -/
def EpochTimer.boundary (t : EpochTimer) : EpochTimer :=
  { t with
    count := t.count + 1
    elapsed := 0
    pendingPeriod := none
    period :=
      match t.pendingPeriod with
      | none => t.period
      | some v => if v = 0 then none else some v }

/-- The boundary of a running timer: the mark is outstanding for every block (R158). -/
def State.boundary (s : State) : State := { s with epoch := s.epoch.boundary, marks := MarkBlock.all }

/-- EPOCH_MARK: blocks for which an earlier mark is still outstanding take that one first; then the boundary,
then the named blocks take its mark in the order given (R158; entry 2). A stopped timer emits no mark. -/
def execEpochMark (blocks : List MarkBlock) (s : State) : Answer :=
  .next
    (match s.epoch.period with
    | none => s
    | some _ => ((s.takeMarks MarkBlock.all).boundary).takeMarks blocks)

/-- RECORD_STALE: the capture table takes an outstanding mark (R13, R14). -/
def execRecordStale (s : State) : Answer := .next (s.takeMark .captureTable)

/-- HOLD_EXPIRY: the record access unit takes an outstanding mark (R52). -/
def execHoldExpiry (s : State) : Answer := .next (s.takeMark .recordAccess)

/-- FALLS_DUE: the node table takes an outstanding mark (R130). -/
def execFallsDue (s : State) : Answer := .next (s.takeMark .nodeTable)

/-- DEADLINE_EXPIRY: the request pool takes an outstanding mark (R143). -/
def execDeadlineExpiry (s : State) : Answer := .next (s.takeMark .requestPool)

/-- CRC_WINDOW_END: a port's CRC-burst detector takes an outstanding mark (R89). -/
def execCrcWindowEnd (p : Port) (s : State) : Answer := .next (s.takeMark (.crcWindow p))

/-- RELEASE_COUNTDOWN_END: the inhibit unit takes an outstanding mark (R173). -/
def execReleaseCountdownEnd (s : State) : Answer := .next (s.takeMark .inhibitUnit)

/-! ### Writing and reading the timer -/

/-- EPP_LOW_WRITE (R157). -/
def execEppLowWrite (v : Octet) (s : State) : Answer := .next { s with epoch := { s.epoch with heldLow := v } }

/-- What a period write does to the timer (R157, R159). -/
def EpochTimer.periodWrite (t : EpochTimer) (v : Word16) : EpochTimer :=
  match t.period with
  | some _ => { t with pendingPeriod := some v }
  | none => if v = 0 then t else { t with period := some v, elapsed := 0 }

/-- PERIOD_WRITE (R157, R159). -/
def execPeriodWrite (v : Octet) (s : State) : Answer :=
  .next { s with epoch := s.epoch.periodWrite (v ++ s.epoch.heldLow) }

/-- The snapshot that a read of 1Ah takes (R160). -/
def State.takeSnapshot (s : State) : State := { s with epoch := { s.epoch with snapshot := s.epoch.count } }

/-- EPC_SNAPSHOT (R160). -/
def execEpcSnapshot (s : State) : Answer := .next s.takeSnapshot

/-! ### An empty queue: time passes (entries 1, 6, 14) -/

/-- What can come about by itself on an empty queue. -/
inductive AutoEvent where
  | portTimer (p : Port)
  | boundary
  | mark (b : MarkBlock)
deriving DecidableEq, Repr

/-- A port's timer has run out. -/
def Sequencer.ripe : Sequencer → Bool
  | .idle => false
  | .sending _ _ t | .awaiting t | .quiet _ t => decide (t = 0)

/-- 0.25 µs less on a port's timer. -/
def Sequencer.tick : Sequencer → Sequencer
  | .idle => .idle
  | .sending f tmo t => .sending f tmo (t - 1)
  | .awaiting t => .awaiting (t - 1)
  | .quiet a t => .quiet a (t - 1)

/-- The epoch in progress has reached its length (R156, R158). -/
def EpochTimer.ripe (t : EpochTimer) : Bool :=
  t.period.any fun n => decide (n.toNat * Config.ticksPerPeriodUnit ≤ t.elapsed)

/-- 0.25 µs of a running timer's epoch (R156). -/
def EpochTimer.tick (t : EpochTimer) : EpochTimer :=
  if t.period.isSome then { t with elapsed := t.elapsed + 1 } else t

/-- What stands to come about now. The record access unit's mark waits for the capture table's (R52). -/
def State.ripeEvents (s : State) : List AutoEvent :=
  ([Port.A, Port.B].filter fun p => (s.port p).sequencer.ripe).map .portTimer ++
    (if s.marks.isEmpty then (if s.epoch.ripe then [.boundary] else [])
    else (s.marks.filter fun b => b ≠ .recordAccess || !s.marks.contains .captureTable).map .mark)

/-- One of them comes about. -/
def State.autoEvent (s : State) : AutoEvent → State
  | .portTimer p =>
    match (s.port p).sequencer with
    | .sending _ _ _ => s.transmitted p
    | .awaiting _ => s.timedOut p
    | .quiet _ _ => s.quietEnded p
    | .idle => s
  | .boundary => s.boundary
  | .mark b => s.takeMark b

/-- 0.25 µs pass in which nothing comes about. -/
def State.tick (s : State) : State :=
  let s := { s with epoch := s.epoch.tick }
  let s := s.modPort .A fun ps => { ps with sequencer := ps.sequencer.tick }
  s.modPort .B fun ps => { ps with sequencer := ps.sequencer.tick }

/-- The step of an empty queue: what stands to come about does, one at a time and, where there are several,
in the order of the free values (entry 6); else 0.25 µs pass. A held part does nothing (R192). -/
def State.idleStep (s : State) : State :=
  if s.held then s
  else
    match s.ripeEvents with
    | [] => s.tick
    | [e] => s.autoEvent e
    | e :: es =>
      { s with choices := s.choices + 1 : State }.autoEvent
        ((e :: es).getD (Config.freeChoice s.choices % (e :: es).length) e)

end Sys2Proof.Machine
end

