-- ==== Sys2Proof/Machine/Changes.lean ====
section
/-! DEFINITION. POP_CHANGE and PEEK_CHANGE (02, R35, R36). -/

namespace Sys2Proof.Machine

/-- The result octets that show an entry of the change queue and a queue length (R35). -/
def changeOctets (e : ChangeEntry) (length : Nat) : List Octet :=
  [octetOf e.record, e.causes.setWidth 8, octetOf length]

/-- The result of both commands on an empty queue (R35, R36). -/
def State.changeEmpty (s : State) : State := s.result .empty [0xFF, 0, 0]

/-- The queued field of a record is cleared at the pop of its entry (R35). -/
def State.clearQueued (s : State) (r : Nat) : State :=
  match s.record r with
  | none => s
  | some rec => s.setRecord r (some { rec with queued := false })

/-- POP_CHANGE (R35). -/
def execPopChange (s : State) : Answer :=
  let s := s.taken 0x18
  .next
    (match s.queue with
    | [] => s.changeEmpty
    | e :: rest => ({ s with queue := rest : State }.clearQueued e.record).result .ok (changeOctets e rest.length))

/-- PEEK_CHANGE (R36). -/
def execPeekChange (s : State) : Answer :=
  let s := s.taken 0x19
  .next
    (match s.queue with
    | [] => s.changeEmpty
    | e :: _ => s.result .ok (changeOctets e s.queue.length))

end Sys2Proof.Machine
end

