-- ==== Sys2Proof/Machine/Filters.lean ====
section
/-! DEFINITION. FILTER_SET (04, R66). -/

namespace Sys2Proof.Machine

/-- The number of enabled filters (R66). -/
def State.enabledFilters (s : State) : Nat := (s.filters.toList.filter Filter.enabled).length

/-- FILTER_SET (R66). -/
def execFilterSet (s : State) : Answer :=
  let s := s.taken 0x30
  .next
    (if s.arg0 > 15 then s.result .badArgument []
    else
      match s.stagedFilter with
      | none => s.result .badArgument []
      | some f =>
        let s := { s with filters := s.filters.setIfInBounds s.arg0 f }
        s.result .ok [octetOf s.enabledFilters])

end Sys2Proof.Machine
end

