-- ==== Sys2Proof/Machine/Holds.lean ====
section
/-! DEFINITION. HOLD, HOLD_SET and UNHOLD (03, R49 to R51). -/

namespace Sys2Proof.Machine

/-- HOLD (R49). -/
def execHold (s : State) : Answer :=
  let s := s.taken 0x28
  .next
    (if s.arg0 > 47 then s.result .badArgument []
    else
      match s.record s.arg0 with
      | none => s.result .noRecord []
      | some rec =>
        if rec.held then s.result .held []
        else if s.holds.length ≥ Config.holdCapacity then s.result .holdLimit []
        else (s.takeHold s.arg0).result .ok [octetOf (s.takeHold s.arg0).holds.length])

/-- The indices that HOLD_SET names, in argument order (R50). -/
def State.holdSetIndices (s : State) : List Nat :=
  [(s.arg 1).toNat, (s.arg 2).toNat, (s.arg 3).toNat, (s.stg 0).toNat].take s.arg0

/-- The checks of HOLD_SET on the index at position `k`, `earlier` being those before it (R50). -/
def State.holdSetCheck (s : State) (k : Nat) (earlier : List Nat) (r : Nat) : ResultCode :=
  if r > 47 then .badArgument
  else
    match s.record r with
    | none => .noRecord
    | some rec =>
      if rec.held || earlier.contains r then .held
      else if s.holds.length + k + 1 > Config.holdCapacity then .holdLimit
      else .ok

/-- The first position whose check fails, with its result code (R50). -/
def State.holdSetFailure (s : State) : Nat → List Nat → List Nat → Option (Nat × ResultCode)
  | _, _, [] => none
  | k, earlier, r :: rs =>
    if s.holdSetCheck k earlier r = .ok then s.holdSetFailure (k + 1) (earlier ++ [r]) rs
    else some (k, s.holdSetCheck k earlier r)

/-- HOLD_SET (R50). -/
def execHoldSet (s : State) : Answer :=
  let s := s.taken 0x29
  .next
    (if s.arg0 = 0 ∨ s.arg0 > 4 then s.result .badArgument []
    else
      match s.holdSetFailure 0 [] s.holdSetIndices with
      | some (k, code) => s.result code [octetOf k]
      | none =>
        (s.holdSetIndices.foldl State.takeHold s).result .ok
          [octetOf (s.holdSetIndices.foldl State.takeHold s).holds.length])

/-- UNHOLD (R51). -/
def execUnhold (s : State) : Answer :=
  let s := s.taken 0x2A
  .next
    (if s.arg0 > 47 then s.result .badArgument []
    else
      match s.record s.arg0 with
      | none => s.result .notHeld []
      | some rec =>
        if rec.held then
          (s.endHold s.arg0).result .ok [yesNo rec.shadow.isSome, octetOf (s.endHold s.arg0).holds.length]
        else s.result .notHeld [])

end Sys2Proof.Machine
end

