-- ==== Sys2Proof/Machine/InhibitCommands.lean ====
section
/-! DEFINITION. INH_FORCE, INH_CLEAR, INH_ACK and the write to INHM (10, R167, R168, R169, R174). -/

namespace Sys2Proof.Machine

/-- INH_FORCE (R167). -/
def execInhForce (s : State) : Answer :=
  let s := s.taken 0x48
  .next
    (match yesNoOf (s.arg 0) with
    | none => s.result .badArgument []
    | some on => let s := s.report .force on
      s.result .ok [s.inh.state.code])

/-- The latched conditions, which INH_CLEAR may name (R168). -/
def latchedConditions : Octet := Condition.startup.bit ||| Condition.linkErrors.bit ||| Condition.tableFull.bit

/-- The named conditions become inactive together, as one change of the effective set (R168). -/
def State.clearConditions (s : State) (set : Octet) : State :=
  afterInhibit s ({ s with inh := { s.inh with active := s.inh.active &&& ~~~set } : State }.inhSettle 0)

/-- INH_CLEAR (R168). -/
def execInhClear (s : State) : Answer :=
  let s := s.taken 0x49
  .next
    (if s.arg 0 &&& ~~~latchedConditions ≠ 0 then s.result .badArgument []
    else
      let s := s.clearConditions (s.arg 0)
      s.result .ok [s.inh.state.code, s.inh.active])

/-- INH_ACK (R174). -/
def execInhAck (s : State) : Answer :=
  let s := s.taken 0x4A
  .next
    (if s.inh.state = .awaitingAck then
      let s := afterInhibit s s.inhRelease
      s.result .ok [s.inh.state.code]
    else s.result .wrongState [s.inh.state.code])

/-- A change of the mask (R169). -/
def State.writeMask (s : State) (v : Octet) : State :=
  if v = s.inh.mask then s
  else
    afterInhibit s
      ({ s with inh := { s.inh with mask := v } : State }.inhSettle (s.inh.active &&& v &&& ~~~s.inh.mask))

/-- INHM_WRITE (R169). -/
def execInhmWrite (v : Octet) (s : State) : Answer := .next (s.writeMask v)

end Sys2Proof.Machine
end

