-- ==== Sys2Proof/Machine/Records.lean ====
section
/-! DEFINITION. The record commands PIN, UNPIN, RELEASE and FLUSH (01, R18 to R22). -/

namespace Sys2Proof.Machine

/-- PIN and UNPIN (R20). -/
def State.setPinned (s : State) (pinned : Bool) : State :=
  if s.arg0 > 47 then s.result .badArgument []
  else
    match s.record s.arg0 with
    | none => s.result .noRecord []
    | some rec => (s.setRecord s.arg0 (some { rec with pinned := pinned })).result .ok []

/-- PIN (R20). -/
def execPin (s : State) : Answer := .next ((s.taken 0x20).setPinned true)

/-- UNPIN (R20). -/
def execUnpin (s : State) : Answer := .next ((s.taken 0x21).setPinned false)

/-- A record is freed, and DATA_STALE re-evaluated if it counted toward it (R18). -/
def State.freeReporting (s : State) (r : Nat) : State :=
  if (s.record r).any Record.untrusted then (s.freeRecord r).reportDataStale else s.freeRecord r

/-- RELEASE (R21). -/
def execRelease (s : State) : Answer :=
  let s := s.taken 0x22
  .next
    (if s.arg0 > 47 then s.result .badArgument []
    else
      match s.record s.arg0 with
      | none => s.result .noRecord []
      | some rec => if rec.held then s.result .held [] else (s.freeReporting s.arg0).result .ok [])

/-- The records that FLUSH frees: in use, neither pinned nor held (R22). -/
def State.flushable (s : State) : List Nat :=
  recordIndices.filter fun r => (s.record r).any fun rec => !rec.pinned && !rec.held

/-- FLUSH (R22). -/
def execFlush (s : State) : Answer :=
  let s := s.taken 0x23
  .next (((s.flushable.foldl State.freeRecord s).reportDataStale).result .ok [octetOf s.flushable.length])

end Sys2Proof.Machine
end

