-- ==== Sys2Proof/Machine/Nodes.lean ====
section
/-! DEFINITION. The node commands (07, R117 to R120, R127). -/

namespace Sys2Proof.Machine

/-- Another non-VACANT entry holds a port and node address (R117, check 4). -/
def State.addressTaken (s : State) (e : Nat) (p : Port) (address : Nat) : Bool :=
  nodeIndices.any fun i =>
    i ≠ e && (s.node i).state ≠ .vacant && (s.node i).port = p && (s.node i).address = address

/-- NODE_SET (R117). -/
def execNodeSet (s : State) : Answer :=
  let s := s.taken 0x38
  let old := s.node s.arg0
  .next
    (if s.arg0 > 31 then s.result .badArgument []
    else if old.state ≠ .vacant ∧ old.state ≠ .disabled then s.result .wrongState []
    else
      match s.stagedNode with
      | none => s.result .badArgument []
      | some n =>
        if s.addressTaken s.arg0 n.port n.address then s.result .badArgument []
        else if old.state = .disabled ∧ s.ownedRecords s.arg0 ≠ [] ∧ (n.port ≠ old.port ∨ n.address ≠ old.address) then
          s.result .wrongState []
        else (s.setNode s.arg0 n).result .ok [])

/-- NODE_ENABLE (R118). -/
def execNodeEnable (s : State) : Answer :=
  let s := s.taken 0x39
  let n := s.node s.arg0
  .next
    (if s.arg0 > 31 then s.result .badArgument []
    else if n.state ≠ .disabled then s.result .wrongState []
    else
      let t := s.setNode s.arg0 { n with state := .probing, missCount := 0, lastSequence := none, countdown := 0 }
      (if (s.port n.port).enabled then t.fallDue s.arg0 else t).result .ok [])

/-- The transaction in flight remembers that its node entry was disabled: a poll cycle is detached (R119), a
request is not retried (R106, R114). -/
def PortState.loseEntry (ps : PortState) (e : Nat) : PortState :=
  { ps with
    dueList := ps.dueList.erase e
    transaction := ps.transaction.map fun t => if t.entry = some e then { t with entryLost := true } else t }

/-- NODE_DISABLE of an enabled entry, steps 1 to 5 (R119). -/
def State.disableNode (s : State) (e : Nat) : State :=
  let n := s.node e
  let s := s.modPort n.port fun ps => ps.loseEntry e
  let s := s.setNode e { n with polled := false, state := .disabled }
  let s := s.nodeNotice e
  if n.state = .absent ∧ n.inhibit = true then s.reportNodeLost else s

/-- NODE_DISABLE (R119). -/
def execNodeDisable (s : State) : Answer :=
  let s := s.taken 0x3A
  .next
    (if s.arg0 > 31 then s.result .badArgument []
    else if (s.node s.arg0).state.enabled then (s.disableNode s.arg0).result .ok []
    else s.result .wrongState [])

/-- NODE_REMOVE (R120). -/
def execNodeRemove (s : State) : Answer :=
  let s := s.taken 0x3B
  .next
    (if s.arg0 > 31 then s.result .badArgument []
    else if (s.node s.arg0).state ≠ .disabled then s.result .wrongState []
    else if s.ownsHeld s.arg0 then s.result .held []
    else
      (((s.ownedRecords s.arg0).foldl State.freeReporting s).setNode s.arg0 NodeEntry.vacant).result .ok
        [octetOf (s.ownedRecords s.arg0).length])

/-- The lowest-numbered entry whose notice flag is set (R127). -/
def State.firstNotice (s : State) : Option Nat := nodeIndices.find? fun e => (s.node e).notice

/-- What NODE_ACK reports (R127). -/
def State.noticeOctets (s : State) : List Octet :=
  match s.firstNotice with
  | some e => [octetOf e, (s.node e).state.code]
  | none => [0xFF, 0]

/-- NODE_ACK (R127). -/
def execNodeAck (s : State) : Answer :=
  let s := s.taken 0x3C
  .next
    (if s.arg0 ≤ 31 then
      let s := s.modNode s.arg0 fun n => { n with notice := false }
      s.result .ok s.noticeOctets
    else if s.arg0 = 255 then s.result .ok s.noticeOctets
    else s.result .badArgument [])

end Sys2Proof.Machine
end

