-- ==== Sys2Proof/Machine/PortCommands.lean ====
section
/-! DEFINITION. PORT_ENABLE, PORT_DISABLE, PORT_RESET and CLEAR_COUNTERS (05, R80, R84 to R86; 06, R111;
07, R125; 08, R154). -/

namespace Sys2Proof.Machine

/-- The link side of PORT_ENABLE (R84, R95): the line is taken as idle from this moment. The sequencer stays as it is: IDLE, or in the quiet interval that
PORT_DISABLE started. -/
def PortState.enable (ps : PortState) : PortState :=
  { ps with
    lineRate := ps.storedRate
    silence := 0
    windowEpochs := 0
    windowCrc := 0
    fired := false
    deframer := .hunting
    receiver := .fresh
    link := .searching
    lastGrant := .request }

/-- PORT_ENABLE on a DISABLED port: the link side, then its enabled entries fall due, ascending (R84, R125). -/
def State.enablePort (s : State) (p : Port) : State :=
  let s := (s.modPort p PortState.enable).raise eventPort
  (s.enabledEntries p).foldl State.fallDue s

/-- PORT_ENABLE (R84). -/
def execPortEnable (s : State) : Answer :=
  let s := s.taken 0x50
  .next
    (match portOf (s.arg 0) with
    | none => s.result .badArgument []
    | some p => if (s.port p).enabled then s.result .wrongState [] else (s.enablePort p).result .ok [])

/-- What PORT_RESET and PORT_DISABLE do to the port itself: it leaves whatever it was doing for QUIET with no
awaited address, and takes its new link state (R85, R86, R111 steps 1 and 4). The heard mark of the abandoned
attempt, to which the spec gives no value here, keeps its value: DESIGN CHOICE, entry 10. So does the receiver, since
the line goes on: DESIGN CHOICE, entry 19. -/
def PortState.stop (ps : PortState) (link : LinkState) (qgap : Octet) : PortState :=
  { ps with
    silence := 0
    windowEpochs := 0
    windowCrc := 0
    fired := false
    deframer := .hunting
    link := link
    sequencer := .quiet none (qgap.toNat * Config.ticksPerTenMicros)
    transaction := none
    dueList := [] }

/-- The poll cycle in flight is reported as ended: no miss (R109, R124). -/
def State.endCycle (s : State) (t : Option Transaction) : State :=
  match t with
  | some t =>
    match t.work, t.entry with
    | .poll, some e => if t.entryLost then s else s.modNode e fun n => { n with polled := false }
    | _, _ => s
  | none => s

/-- The requests of the port complete with FLUSHED: the one in flight, then the WAITING ones (R154). -/
def State.flushRequests (s : State) (p : Port) : State :=
  ((s.requests.filter fun q => q.port = p && q.state = .inFlight) ++ s.waitingOf p).foldl
    (fun s q => s.complete q .flushed) s

/-- One enabled entry of the port becomes PROBING (R125, R126). -/
def State.probeEntry (s : State) (e : Nat) : State :=
  let n := s.node e
  let s := s.setNode e { n with state := .probing, missCount := 0, lastSequence := none, countdown := 0 }
  (if n.state = .probing then s else s.nodeChanged e).nodeNotice e

/-- What PORT_RESET and PORT_DISABLE have in common, for the link state they leave: the sequencer is stopped
before the first report, so that a fall of INH grants nothing on the port itself (entry 7); then the report of
PORT_x_DOWN, the abandoned transaction, the port's requests, its entries, and NODE_LOST once (R111, R125,
R154, R165). -/
def State.stopPort (s : State) (p : Port) (link : LinkState) : State :=
  let ps := s.port p
  let s := s.setPort p (ps.stop link s.qgap)
  let s := if ps.link = link then s else s.raise eventPort
  let s := if ps.link = .down then s.report (portDown p) false else s
  let s := s.endCycle ps.transaction
  let s := s.flushRequests p
  ((s.enabledEntries p).foldl State.probeEntry s).reportNodeLost

/-- PORT_DISABLE (R85). -/
def execPortDisable (s : State) : Answer :=
  let s := s.taken 0x51
  .next
    (match portOf (s.arg 0) with
    | none => s.result .badArgument []
    | some p => if (s.port p).enabled then (s.stopPort p .disabled).result .ok [] else s.result .wrongState [])

/-- PORT_RESET on an enabled port: it stops, stays enabled in SEARCHING, and its entries fall due at once, in
ascending index (R86, R95, R125). -/
def State.resetPort (s : State) (p : Port) : State :=
  let s := (s.stopPort p .searching).modPort p fun ps => { ps with lastGrant := .request }
  (s.enabledEntries p).foldl State.fallDue s

/-- PORT_RESET (R86). -/
def execPortReset (s : State) : Answer :=
  let s := s.taken 0x52
  .next
    (match portOf (s.arg 0) with
    | none => s.result .badArgument []
    | some p => if (s.port p).enabled then (s.resetPort p).result .ok [] else s.result .wrongState [])

/-- The ports that CLEAR_COUNTERS names (R80). -/
def portsOf (v : Octet) : Option (List Port) :=
  if v = 0 then some [.A] else if v = 1 then some [.B] else if v = 2 then some [.A, .B] else none

/-- CLEAR_COUNTERS (R80). -/
def execClearCounters (s : State) : Answer :=
  let s := s.taken 0x53
  .next
    (match portsOf (s.arg 0) with
    | none => s.result .badArgument []
    | some ps => (ps.foldl (fun s p => s.modCounters p fun _ => .zero) s).result .ok [])

end Sys2Proof.Machine
end

