-- ==== Sys2Proof/Machine/Registers.lean ====
section
/-! DEFINITION. Writes to EVF and EVE (11, R182, R183) and to the plain registers of the window (12, R189,
R194, with the range rules of R53, R59, R88, R172). -/

namespace Sys2Proof.Machine

/-- EVF_WRITE: each sticky flag written 1 is cleared; a level flag follows its collection (R182). -/
def execEvfWrite (half : Half) (v : Octet) (s : State) : Answer :=
  .next { s with sticky := s.sticky &&& ~~~halfBits half v }

/-- EVE_WRITE: every enable of the octet takes the value written (R183). -/
def execEveWrite (half : Half) (v : Octet) (s : State) : Answer :=
  .next { s with enables := (s.enables &&& ~~~halfMask half) ||| halfBits half v }

/-- A register with a range: a value outside it is ignored (R88). -/
def ranged (lo hi : Nat) (old v : Octet) : Octet := if lo ≤ v.toNat ∧ v.toNat ≤ hi then v else old

/-- A write to a plain register: stored under the register's own rule, or ignored (R189, R194). -/
def State.writeRegister (s : State) (a : Nat) (v : Octet) : State :=
  if 0x01 ≤ a ∧ a ≤ 0x04 then { s with args := s.args.setIfInBounds (a - 0x01) v }
  else if a = 0x13 then { s with inh := { s.inh with mode := (releaseModeOf v).getD s.inh.mode } }
  else if a = 0x14 then { s with inh := { s.inh with delay := v } }
  else if 0x20 ≤ a ∧ a ≤ 0x3F then { s with staging := s.staging.setIfInBounds (a - 0x20) v }
  else if a = 0x70 then { s with portA := { s.portA with storedRate := (bitRateOf v).getD s.portA.storedRate } }
  else if a = 0x71 then { s with portB := { s.portB with storedRate := (bitRateOf v).getD s.portB.storedRate } }
  else if a = 0x72 then { s with tmo := ranged 2 255 s.tmo v }
  else if a = 0x73 then { s with qgap := ranged 1 255 s.qgap v }
  else if a = 0x74 then { s with silim := ranged 2 15 s.silim v }
  else if a = 0x75 then { s with crct := ranged 1 255 s.crct v }
  else if a = 0x76 then { s with crcw := ranged 1 255 s.crcw v }
  else if a = 0x77 then { s with hlim := v }
  else if a = 0x78 then { s with defa := (actionOf v).getD s.defa }
  else s

/-- REGISTER_WRITE (R189). An address with a row of its own is no term of this row (entry 15). -/
def execRegisterWrite (a : Addr) (v : Octet) (s : State) : Answer :=
  if plainAddressOk a then .next (s.writeRegister a.toNat v) else .refused .notWellFormed

end Sys2Proof.Machine
end

