-- ==== Sys2Proof/Machine/Requests.lean ====
section
/-! DEFINITION. SUBMIT, ABORT and POP_COMPLETION (08, R139, R140, R145, R150). -/

namespace Sys2Proof.Machine

/-- A tag belongs to a request in the pool or to an unpopped completion (R139). -/
def State.tagInUse (s : State) (tag : Octet) : Bool :=
  (s.requests.any fun q => q.tag = tag) || s.completions.any fun c => c.tag = tag

/-- SUBMIT (R139, R140). -/
def execSubmit (s : State) : Answer :=
  let s := s.taken 0x40
  .next
    (match s.stagedRequest with
    | none => s.result .badArgument []
    | some q =>
      if !q.isBroadcast && (s.findNode q.port q.address).isNone then s.result .badArgument []
      else if !(s.port q.port).enabled then s.result .portOff []
      else if s.tagInUse q.tag then s.result .tagInUse []
      else if s.slotsUsed ≥ Config.poolSlots then s.result .full []
      else
        ({ s with requests := s.requests ++ [q] : State }.evaluate q.port).result .ok [octetOf (s.slotsUsed + 1)])

/-- ABORT of a WAITING request: it completes at once, and the arbiter evaluates if it was the oldest of its
port (R145). -/
def State.abortWaiting (s : State) (q : Request) : State :=
  if (s.oldestWaiting q.port).any fun x => x.tag = q.tag then (s.complete q .aborted).evaluate q.port
  else s.complete q .aborted

/-- ABORT (R145). -/
def execAbort (s : State) : Answer :=
  let s := s.taken 0x41
  .next
    (match s.requestOf (s.arg 0) with
    | none => s.result .noTag []
    | some q =>
      match q.state with
      | .waiting => (s.abortWaiting q).result .ok [0]
      | .inFlight => (s.modRequest q.tag fun x => { x with abortPending := true }).result .ok [1])

/-- The result octets that show a completion (R150). -/
def completionOctets (c : Completion) : List Octet :=
  [c.tag, c.status.code, octetOf c.attempts, c.status.reasonCode, lowOctet c.epoch, highOctet c.epoch]

/-- POP_COMPLETION (R150). -/
def execPopCompletion (s : State) : Answer :=
  let s := s.taken 0x42
  .next
    (match s.completions with
    | [] => s.result .empty []
    | c :: rest => { s with completions := rest : State }.result .ok (completionOctets c))

end Sys2Proof.Machine
end

