-- ==== Sys2Proof/Machine/Resets.lean ====
section
/-! DEFINITION. HARD_RESET, SOFT_RESET and BAD_COMMAND (12, sections 12.2 and 12.3). -/

namespace Sys2Proof.Machine

/-- RESET# falls, or the power is switched on: the part is held (R192). It stops all activity; a transaction in
progress is abandoned, and what has not been taken is discarded. What ends the held period is the one command
that waits: HARD_RESET. -/
def State.resetFalls (s : State) : State :=
  { s with held := true, host := s.host.abandoned, pending := [.hardReset] }

/-- What the host or a line sends joins the commands that wait; while the part is held nothing is taken (R192). -/
def State.send (s : State) (cs : List Instr) : State := if s.held then s else { s with pending := s.pending ++ cs }

/-- HARD_RESET: the held period ends, and every block has its hard reset values (R192). It is the same from a
part that was not held: the fall and the end as one step (entry 12). The levels of CS# and SCK are the host's; the
sender's queue and the model's index of free values are no state of the part. -/
def execHardReset (s : State) : Answer :=
  .next { State.reset with host := s.host.abandoned, pending := s.pending, choices := s.choices }

/-- What a soft reset does to a port: an enabled one to SEARCHING by way of QUIET (R93, R112); counters,
transmit counts, silence counters and detectors of both to 0 (R93); the last grant kind to REQUEST (R95); the
due lists empty (R135). The heard mark, to which the spec gives no value here, keeps its value: DESIGN CHOICE,
entry 10. So does the receiver, since the line goes on: DESIGN CHOICE, entry 19. -/
def PortState.softReset (ps : PortState) (qgap : Octet) : PortState :=
  { ps with
    link := if ps.enabled then .searching else ps.link
    silence := 0
    counters := .zero
    windowEpochs := 0
    windowCrc := 0
    fired := false
    transmitCount := 0
    deframer := .hunting
    sequencer := if ps.enabled then .quiet none (qgap.toNat * Config.ticksPerTenMicros) else ps.sequencer
    transaction := none
    lastGrant := .request
    dueList := [] }

/-- What a soft reset does to a node entry (R135). -/
def NodeEntry.softReset (n : NodeEntry) : NodeEntry :=
  { n with
    state := if n.state.enabled then .probing else n.state
    notice := false
    countdown := 0
    missCount := 0
    lastSequence := none
    gaps := 0
    duplicates := 0
    lates := 0
    slips := 0
    polled := false }

/-- What a soft reset does to the inhibit unit, before a release decision (R179). -/
def InhibitUnit.softReset (u : InhibitUnit) : InhibitUnit :=
  { u with state := .asserted, active := Condition.startup.bit, firstCause := .startup, firstEpoch := 0 }

/-- Every block after a soft reset, before the release decision that a masked STARTUP brings about: R27, R41,
R57, R69, R93, R112, R135, R155, R163, R179, R186, R190, R193. -/
def State.softResetBlocks (s : State) : State :=
  { s with
    rslt := .ok
    res := resultOctets []
    view := Vector.replicate 48 0
    holds := []
    records := Vector.replicate 48 none
    evictions := 0
    drops := 0
    shadowOverwrites := 0
    queue := []
    portA := s.portA.softReset s.qgap
    portB := s.portB.softReset s.qgap
    nodes := s.nodes.mapIdx fun _ n => n.softReset
    requests := []
    completions := []
    epoch := { s.epoch with count := 0, snapshot := 0 }
    inh := s.inh.softReset
    sticky := 0
    marks := [] }

/-- SOFT_RESET (R193). If the mask it keeps leaves no condition effective, the release decision follows at
once (R179). -/
def execSoftReset (s : State) : Answer := .next ((s.taken 0x5A).softResetBlocks.inhSettle 0)

/-- BAD_COMMAND: the code is taken as a command and refused (R190). -/
def execBadCommand (code : Octet) (s : State) : Answer :=
  if badCodeOk code then .next ((s.taken code).result .badCommand []) else .refused .notWellFormed

end Sys2Proof.Machine
end

