-- ==== Sys2Proof/Machine/Views.lean ====
section
/-! DEFINITION. The VIEW commands and the layouts of the view buffer (03, R42 to R47; 12, R197). -/

namespace Sys2Proof.Machine

/-- The view buffer with the named octets first; octets that a layout does not name read 0 (R42). -/
def viewOctets (os : List Octet) : Vector Octet 48 := (Vector.replicate 48 (0 : Octet)).mapIdx fun k _ => os.getD k 0

/-- A payload filled with zeros to 24 octets (R44). -/
def paddedPayload (os : List Octet) : List Octet := (os ++ List.replicate 24 0).take 24

/-- The low octet and the high octet of a counter. -/
def count16 (n : Nat) : List Octet := [lowOctet (BitVec.ofNat 16 n), highOctet (BitVec.ofNat 16 n)]

/-- The two octets of the copy epoch (R44). -/
def State.copyEpoch (s : State) : List Octet := [lowOctet s.epoch16, highOctet s.epoch16]

/-- The hold age of a record, 0 if it is not held (R44). -/
def State.holdAge (s : State) (r : Nat) : Nat :=
  match s.holds.find? fun h => h.record = r with
  | some h => h.age
  | none => 0

/-- The record view (R44, R197). -/
def State.recordView (s : State) (r : Nat) (rec : Record) : List Octet :=
  [0x01, octetOf r, octetOf rec.entry, rec.itemType.setWidth 8, rec.state.code, octetOf rec.payload.length] ++
    paddedPayload rec.payload ++
    [rec.sequence, octetOf rec.age, lowOctet rec.updateCount, highOctet rec.updateCount, octetOf rec.filterIndex,
     rec.policy.code, octetOf rec.staleLimit,
     flagBit 0 rec.inhibit ||| flagBit 1 rec.pinned ||| flagBit 2 rec.queued ||| flagBit 3 rec.held |||
       flagBit 4 (rec.held && rec.shadow.isSome),
     octetOf (s.holdAge r)] ++
    s.copyEpoch

/-- An entry stands in its port's due list or is being polled (R45). -/
def State.entryDue (s : State) (e : Nat) : Bool :=
  (s.node e).polled || (s.port (s.node e).port).dueList.contains e

/-- The node view; of a VACANT entry only its index and the copy epoch are not 0 (R45, R197). -/
def State.nodeView (s : State) (e : Nat) : List Octet :=
  let n := s.node e
  if n.state = .vacant then [0x02, octetOf e] ++ List.replicate 14 0 ++ s.copyEpoch
  else
    [0x02, octetOf e, n.state.code,
     flagBit 0 n.notice ||| flagBit 1 (decide (n.port = .B)) ||| flagBit 2 n.inhibit |||
       flagBit 3 (s.entryDue e) ||| flagBit 4 n.lastSequence.isSome,
     octetOf n.address, octetOf n.pollInterval, octetOf n.retryLimit, octetOf n.absentThreshold,
     octetOf n.countdown, octetOf n.missCount, n.lastSequence.getD 0, octetOf n.gaps, octetOf n.duplicates,
     octetOf n.lates, octetOf n.slips, octetOf (s.ownedRecords e).length] ++
      s.copyEpoch

/-- The port view (R46, R197). -/
def State.portView (s : State) (p : Port) : List Octet :=
  let ps := s.port p
  let c := ps.counters
  [0x03, portCode p, ps.link.code, octetOf ps.silence] ++ count16 c.crcErrors ++ count16 c.formatErrors ++
    count16 c.foreign ++ count16 c.stray ++ count16 c.late ++ count16 c.unknownSource ++ count16 c.noReply ++
    count16 c.discarded ++ [octetOf s.recordsInUse] ++ count16 s.evictions ++ count16 s.drops ++
    count16 s.shadowOverwrites ++ s.copyEpoch

/-- The buffer takes a whole new view (R42). -/
def State.showView (s : State) (os : List Octet) : State := { s with view := viewOctets os }

/-- What a VIEW copies from: no epoch mark falls between one field and the next (R47), so a mark that has been
emitted has reached every block, and the view is that of the mark taken first (entry 2). -/
def State.wholeMark (s : State) : State := s.takeMarks MarkBlock.all

/-- VIEW_RECORD (R43, R47). -/
def execViewRecord (s : State) : Answer :=
  let r := s.arg0
  .next
    (if r > 47 then (s.taken 0x10).result .badArgument []
    else
      let s := s.wholeMark.taken 0x10
      match s.record r with
      | none => (s.showView []).result .noRecord []
      | some rec => (s.showView (s.recordView r rec)).result .ok [])

/-- VIEW_NODE (R45, R47). -/
def execViewNode (s : State) : Answer :=
  let e := s.arg0
  .next
    (if e > 31 then (s.taken 0x11).result .badArgument []
    else
      let s := s.wholeMark.taken 0x11
      (s.showView (s.nodeView e)).result .ok [])

/-- VIEW_PORT (R46, R47). -/
def execViewPort (s : State) : Answer :=
  .next
    (match portOf (s.arg 0) with
    | none => (s.taken 0x12).result .badArgument []
    | some p =>
      let s := s.wholeMark.taken 0x12
      (s.showView (s.portView p)).result .ok [])

end Sys2Proof.Machine
end

