-- ==== Sys2Proof/Machine/Dispatch.lean ====
section
/-! DEFINITION. exec: one arm per constructor of Instr, each one direct call of its meaning. -/

namespace Sys2Proof.Machine

def exec (i : Instr) (s : State) : Host.Outcome State Fault Refusal :=
  match i with
  | .hardReset => Sys2Proof.Machine.execHardReset s
  | .softReset => Sys2Proof.Machine.execSoftReset s
  | .badCommand code => Sys2Proof.Machine.execBadCommand code s
  | .viewRecord => Sys2Proof.Machine.execViewRecord s
  | .viewNode => Sys2Proof.Machine.execViewNode s
  | .viewPort => Sys2Proof.Machine.execViewPort s
  | .popChange => Sys2Proof.Machine.execPopChange s
  | .peekChange => Sys2Proof.Machine.execPeekChange s
  | .pin => Sys2Proof.Machine.execPin s
  | .unpin => Sys2Proof.Machine.execUnpin s
  | .release => Sys2Proof.Machine.execRelease s
  | .flush => Sys2Proof.Machine.execFlush s
  | .hold => Sys2Proof.Machine.execHold s
  | .holdSet => Sys2Proof.Machine.execHoldSet s
  | .unhold => Sys2Proof.Machine.execUnhold s
  | .filterSet => Sys2Proof.Machine.execFilterSet s
  | .nodeSet => Sys2Proof.Machine.execNodeSet s
  | .nodeEnable => Sys2Proof.Machine.execNodeEnable s
  | .nodeDisable => Sys2Proof.Machine.execNodeDisable s
  | .nodeRemove => Sys2Proof.Machine.execNodeRemove s
  | .nodeAck => Sys2Proof.Machine.execNodeAck s
  | .submit => Sys2Proof.Machine.execSubmit s
  | .abort => Sys2Proof.Machine.execAbort s
  | .popCompletion => Sys2Proof.Machine.execPopCompletion s
  | .inhForce => Sys2Proof.Machine.execInhForce s
  | .inhClear => Sys2Proof.Machine.execInhClear s
  | .inhAck => Sys2Proof.Machine.execInhAck s
  | .portEnable => Sys2Proof.Machine.execPortEnable s
  | .portDisable => Sys2Proof.Machine.execPortDisable s
  | .portReset => Sys2Proof.Machine.execPortReset s
  | .clearCounters => Sys2Proof.Machine.execClearCounters s
  | .evfWrite half value => Sys2Proof.Machine.execEvfWrite half value s
  | .eveWrite half value => Sys2Proof.Machine.execEveWrite half value s
  | .inhmWrite value => Sys2Proof.Machine.execInhmWrite value s
  | .eppLowWrite value => Sys2Proof.Machine.execEppLowWrite value s
  | .periodWrite value => Sys2Proof.Machine.execPeriodWrite value s
  | .epcSnapshot => Sys2Proof.Machine.execEpcSnapshot s
  | .registerWrite addr value => Sys2Proof.Machine.execRegisterWrite addr value s
  | .frameReceived port octets => Sys2Proof.Machine.execFrameReceived port octets s
  | .grant port => Sys2Proof.Machine.execGrant port s
  | .transmitCompletion port => Sys2Proof.Machine.execTransmitCompletion port s
  | .responseTimeoutExpiry port => Sys2Proof.Machine.execResponseTimeoutExpiry port s
  | .quietIntervalExpiry port => Sys2Proof.Machine.execQuietIntervalExpiry port s
  | .epochMark blocks => Sys2Proof.Machine.execEpochMark blocks s
  | .recordStale => Sys2Proof.Machine.execRecordStale s
  | .holdExpiry => Sys2Proof.Machine.execHoldExpiry s
  | .fallsDue => Sys2Proof.Machine.execFallsDue s
  | .deadlineExpiry => Sys2Proof.Machine.execDeadlineExpiry s
  | .crcWindowEnd port => Sys2Proof.Machine.execCrcWindowEnd port s
  | .releaseCountdownEnd => Sys2Proof.Machine.execReleaseCountdownEnd s
  | .startDelimiter port => Sys2Proof.Machine.execStartDelimiter port s

end Sys2Proof.Machine
end

