-- ==== Sys2Proof/Machine/Step.lean ====
section
/-! DEFINITION. One step of the block: the command at the front of the queue, or the passing of time on an
empty queue. -/

namespace Sys2Proof.Machine

/-- One step: the command at the front of the queue is executed on the state with the queue's rest; on an
empty queue time passes (entry 1). -/
def step (s : State) : Host.Outcome State Fault Refusal :=
  match s.pending with
  | [] => .next s.idleStep
  | c :: rest => exec c { s with pending := rest }

/-- `s` with the command that a word spells put at the front of its queue; no word spells one, since the
table gives no bits (entry 13). -/
def State.withFetchWord (s : State) (nbits w : Nat) : State :=
  match decodeTableWord nbits w with
  | some c => { s with pending := c :: s.pending }
  | none => s

/-- `s` with the commands of an SPI transaction, given its completed octets, at the end of its queue (R188;
entry 11); HostPort.lean says the same bit by bit. -/
def State.withTransaction (s : State) (octets : List Octet) : State := s.send (spiCommands octets)

end Sys2Proof.Machine
end

