-- ==== Sys2Proof/Machine/Arrival.lean ====
section
/-! DEFINITION. What reaches the pins reaches the part after every command that waits: the commands are taken
first, and one that a pin completes is taken at that moment (R190; entry 11). -/

namespace Sys2Proof.Machine

/-- `n` commands that wait are taken, in order. A term that the model refuses changes nothing (entry 15). -/
def takeWaiting : Nat → State → State
  | 0, s => s
  | n + 1, s =>
    match step s with
    | .next t => takeWaiting n t
    | .fault _ | .refused _ => takeWaiting n { s with pending := s.pending.drop 1 }

/-- The part once it has taken every command that waits; a held part takes none (R192). -/
def State.caughtUp (s : State) : State := if s.held then s else takeWaiting s.pending.length s

/-- A command reaches the part and is taken at that moment (R190). -/
def State.takeNow (s : State) (c : Instr) : State := (s.send [c]).caughtUp

end Sys2Proof.Machine
end

