-- ==== Sys2Proof/Machine/FieldLine.lean ====
section
/-! DEFINITION. The receive side of a Fieldlane line, bit time by bit time (R70, R76). What happens on the line is no
row of the opcode table: the octets of a frame come together here, and the start delimiter and the end of a frame
are taken as their rows (entries 18 and 19). -/

namespace Sys2Proof.Machine

/-- The receiver of a port is as given. -/
def State.setReceiver (s : State) (p : Port) (r : LineReceiver) : State := s.modPort p fun ps => { ps with receiver := r }

/-- The frame being received ends: complete or cut short, it is checked (R76, R77). While hunting there is none. -/
def State.frameEnds (s : State) (p : Port) : State :=
  match (s.port p).deframer with
  | .hunting => s
  | .receiving octets => s.takeNow (.frameReceived p octets)

/-- An octet has been received, its stop bit found. Hunting, it begins a frame where it is a start delimiter after at
least 2 octet times of idle, and is else discarded without count. Receiving, it is an octet of the frame, and may be
the last one (R70, R76). -/
def State.octetReceived (s : State) (p : Port) (afterIdle : Bool) (o : Octet) : State :=
  match (s.port p).deframer with
  | .hunting => if afterIdle ∧ o = startDelimiterOctet then s.takeNow (.startDelimiter p) else s
  | .receiving octets =>
    let s := s.modPort p fun ps => { ps with deframer := .receiving (octets ++ [o]) }
    if frameEnded (octets ++ [o]) then s.frameEnds p else s

/-- A bit time in which no octet is in progress and the line stays idle: a frame ends when it has been idle for 2
octet times (R76). -/
def State.lineIdle (s : State) (p : Port) (r : LineReceiver) : State :=
  let idle := satInc Config.idleBits r.idle
  let s := s.setReceiver p { r with idle }
  if idle = Config.idleBits then s.frameEnds p else s

/-- One bit time of a port's receive pin at the level `high`: idle, a start bit, a data bit, or a stop bit. An octet
whose stop bit is not found is an octet error, at which a frame ends (R70, R76). The pin is ignored while the port
is DISABLED, while its driver enable is asserted (R76), and while the part is held (R192). The line is sampled in
whole bit times, and the level of each kind of bit is PRESUMED: entry 19. -/
def State.lineBit (s : State) (p : Port) (high : Bool) : State :=
  let s := s.caughtUp
  let r := (s.port p).receiver
  if s.held || !(s.port p).listening then s
  else
    match r.bits with
    | none => if high then s.lineIdle p r else s.setReceiver p { r with bits := some [] }
    | some got =>
      if got.length < 8 then s.setReceiver p { r with bits := some (got ++ [high]) }
      else
        let s := s.setReceiver p .fresh
        if high then s.octetReceived p (decide (Config.idleBits ≤ r.idle)) (octetOfLine got) else s.frameEnds p

/-- Bit times of a port's receive pin, one after the other. -/
def State.lineBits (s : State) (p : Port) (levels : List Bool) : State := levels.foldl (fun s b => s.lineBit p b) s

end Sys2Proof.Machine
end

