-- ==== Sys2Proof/Machine/Window.lean ====
section
/-! DEFINITION. What the outside sees without a command: the register window as it is read (12, R188, R189,
R194, R195), the status octet, and the pins (12, section 12.4). -/

namespace Sys2Proof.Machine

/-- The flags, or the enables, as the two octets of EVF and EVE (R195). -/
def flagOctet (half : Half) (v : BitVec 9) : Octet :=
  match half with
  | .low => v.truncate 8
  | .high => (v >>> 8).truncate 8

/-- EPP reads the period that will be in force after the next boundary (R157). -/
def EpochTimer.eppRead (t : EpochTimer) : Word16 :=
  match t.pendingPeriod with
  | some v => v
  | none => t.period.getD 0

/-- EPS (R161, R195). -/
def EpochTimer.eps (t : EpochTimer) : Octet := flagBit 0 t.period.isSome ||| flagBit 1 t.pendingPeriod.isSome

/-- PSTA (R195). -/
def State.psta (s : State) : Octet := s.portA.link.code ||| (s.portB.link.code <<< 2)

/-- POOL (R153, R195). -/
def State.poolOctet (s : State) : Octet :=
  if s.requests.length = 16 then 0xFF
  else if s.completions.length = 16 then 0xEE
  else octetOf (16 * s.requests.length + s.completions.length)

/-- An octet of HOLDS (R56). -/
def State.holdsOctet (s : State) (k : Nat) : Octet :=
  match s.holds[k]? with
  | some h => octetOf h.record
  | none => 0xFF

/-- What a read of an address returns at this moment (R189, R194). The side effect of a read of 1Ah is the
command EPC_SNAPSHOT, after which 1Ah shows the count. -/
def State.readRegister (s : State) (addr : Addr) : Octet :=
  let a := addr.toNat
  if a = 0x00 then s.cmd
  else if a ≤ 0x04 then (s.args[a - 0x01]?).getD 0
  else if a = 0x05 then s.rslt.code
  else if a ≤ 0x0B then (s.res[a - 0x06]?).getD 0
  else if a = 0x0C then flagOctet .low s.flags
  else if a = 0x0D then flagOctet .high s.flags
  else if a = 0x0E then flagOctet .low s.enables
  else if a = 0x0F then flagOctet .high s.enables
  else if a = 0x10 then s.inh.state.code
  else if a = 0x11 then s.inh.active
  else if a = 0x12 then s.inh.mask
  else if a = 0x13 then s.inh.mode.code
  else if a = 0x14 then s.inh.delay
  else if a = 0x15 then octetOf s.inh.firstCause.number
  else if a = 0x16 then lowOctet s.inh.firstEpoch
  else if a = 0x17 then highOctet s.inh.firstEpoch
  else if a = 0x18 then lowOctet s.epoch.eppRead
  else if a = 0x19 then highOctet s.epoch.eppRead
  else if a ≤ 0x1D then (s.epoch.snapshot >>> (8 * (a - 0x1A))).truncate 8
  else if a = 0x1E then s.psta
  else if a = 0x1F then s.epoch.eps
  else if a ≤ 0x3F then (s.staging[a - 0x20]?).getD 0
  else if a ≤ 0x6F then (s.view[a - 0x40]?).getD 0
  else if a = 0x70 then s.portA.storedRate.code
  else if a = 0x71 then s.portB.storedRate.code
  else if a = 0x72 then s.tmo
  else if a = 0x73 then s.qgap
  else if a = 0x74 then s.silim
  else if a = 0x75 then s.crct
  else if a = 0x76 then s.crcw
  else if a = 0x77 then s.hlim
  else if a = 0x78 then s.defa.code
  else if a = 0x79 then octetOf s.queue.length
  else if a = 0x7A then s.poolOctet
  else if a ≤ 0x7E then s.holdsOctet (a - 0x7B)
  else 0

/-- The data octets of a read transaction of `n` octets that starts at `a`, and the state after it: the
address advances and wraps, and a read of 1Ah takes the snapshot there (R160, R188, R189). -/
def spiRead (a : Addr) : Nat → State → List Octet × State
  | 0, s => ([], s)
  | n + 1, s =>
    let s := if a = 0x1A then s.takeSnapshot else s
    let later := spiRead (a + 1) n s
    (s.readRegister a :: later.1, later.2)

/-- The status octet, shifted out during the address octet (R188). -/
def State.statusOctet (s : State) : Octet := flagBit 0 s.irq ||| flagBit 1 s.inhAsserted

/-- The level of SDO: `none` is high-impedance, while CS# is high (R188), while the part is held (R192), and with
CS# low outside a transaction (entry 12). -/
def State.sdo (s : State) : Option Bool :=
  if s.held ∨ s.host.csHigh = true ∨ s.host.phase = .off then none else some (s.host.out.head?.getD false)

/-- The output pins: levels of IRQ and INH, the driver enables, the transmit pins, and SDO (12.4). -/
structure Pins where
  irqHigh : Bool
  inhHigh : Bool
  dea : Bool
  deb : Bool
  txaHigh : Bool
  txbHigh : Bool
  sdo : Option Bool
deriving DecidableEq, Repr

/-- The frame that a port holds in SENDING (R99). -/
def PortState.transmitting (ps : PortState) : Option (List Octet) :=
  match ps.sequencer with
  | .sending frame _ _ => some frame
  | .idle | .awaiting _ | .quiet _ _ => none

/-- The level of a port's transmit pin (R70, R100): in SENDING that of the bit time which its time has come to, at
the port's line rate, and idle whenever the port is not sending (R76, 12.4). -/
def PortState.txHigh (ps : PortState) : Bool :=
  match ps.sequencer with
  | .sending frame _ timeLeft =>
    ((sendingLevels frame)[(sendingTicks ps.lineRate frame - timeLeft) / ps.lineRate.bitTicks]?).getD true
  | .idle | .awaiting _ | .quiet _ _ => true

/-- The pins while RESET# is held low and from power-on until the hard reset ends (R192). -/
def heldPins : Pins :=
  { irqHigh := true, inhHigh := true, dea := false, deb := false, txaHigh := true, txbHigh := true, sdo := none }

/-- The pins: IRQ is driven low while asserted (R184), INH high while asserted (R170), driver enable high in
SENDING (R76, 12.4); all of them as R192 says while the part is held. -/
def State.pins (s : State) : Pins :=
  if s.held then heldPins
  else
    { irqHigh := !s.irq, inhHigh := s.inhAsserted, dea := s.portA.isSending, deb := s.portB.isSending,
      txaHigh := s.portA.txHigh, txbHigh := s.portB.txHigh, sdo := s.sdo }

end Sys2Proof.Machine
end

