-- ==== Sys2Proof/Machine/HostPort.lean ====
section
/-! DEFINITION. The SPI target of the host port, edge by edge (R188, R189, R192). The edges come from the host at
any moment and are no rows of the opcode table. An edge comes after every command that waits, and a data octet
written is taken as its row at the moment at which it is complete (R190; entry 11). -/

namespace Sys2Proof.Machine

/-! ### Octets as bits, most significant first -/

/-- The bits of an octet in the order in which they are sent. -/
def bitsOf (o : Octet) : List Bool := (List.range 8).map fun k => o.getLsbD (7 - k)

/-- The octet of bits that were sampled in order. -/
def octetOfBits (bits : List Bool) : Octet := bits.foldl (fun o b => (o <<< 1) ||| (if b then 1 else 0)) 0

/-! ### The four edges -/

/-- CS# falls: a transaction begins with its address octet, and the status octet is taken, since its first bit
leaves the part. A held part begins none (R192). SCK idles low. -/
def State.csFalls (s : State) : State :=
  let s := s.caughtUp
  if s.host.csHigh = false then s
  else
    { s with
      host :=
        if s.held then { s.host with csHigh := false }
        else { csHigh := false, sckHigh := false, phase := .address [], out := bitsOf s.statusOctet } }

/-- CS# rises: the transaction ends, and an octet cut short is discarded. -/
def State.csRises (s : State) : State := { s with host := .reset }

/-- The transaction after an address octet: bit 7 is 1 for a write (R188). -/
def SpiPhase.ofAddress (o : Octet) (count : Word32) : SpiPhase :=
  if o.getLsbD 7 then .write (o.truncate 7) [] else .read (o.truncate 7) 0 count

/-- The eighth bit of an octet read has been clocked: 1Ah has left the count with which it was taken in the
snapshot (R160), and the address advances (R189). -/
def State.octetRead (s : State) (a : Addr) (count : Word32) : State :=
  { s with
    epoch := if a = 0x1A then { s.epoch with snapshot := count } else s.epoch
    host := { s.host with phase := .read (a + 1) 0 count } }

/-- A bit is sampled. The eighth bit of an address octet says what the transaction is, and the eighth bit of a
data octet completes its write (R188, R189). -/
def State.sampled (s : State) (b : Bool) : State :=
  let at' := fun (ph : SpiPhase) => { s with host := { s.host with phase := ph } : State }
  match s.host.phase with
  | .off => s
  | .address got =>
    if got.length = 7 then at' (.ofAddress (octetOfBits (got ++ [b])) s.epoch.count) else at' (.address (got ++ [b]))
  | .write a got =>
    if got.length = 7 then (at' (.write (a + 1) [])).takeNow (hostWrite a (octetOfBits (got ++ [b])))
    else at' (.write a (got ++ [b]))
  | .read a got count => if got = 7 then s.octetRead a count else at' (.read a (got + 1) count)

/-- SCK rises: SDI is sampled. While CS# is high SCK and SDI are ignored. -/
def State.sckRises (s : State) (sdi : Bool) : State :=
  let s := s.caughtUp
  if s.host.csHigh ∨ s.host.sckHigh then s
  else { s with host := { s.host with sckHigh := true } : State }.sampled sdi

/-- SDO changes: to the next bit of an octet, or to the first bit of the next one, which is 00h in a write and is
taken from the current address at this moment in a read (R188). The octet of 1Ah is the low octet of the count. -/
def State.shifted (s : State) : State :=
  let put := fun (ph : SpiPhase) (bits : List Bool) => { s with host := { s.host with phase := ph, out := bits } : State }
  match s.host.phase with
  | .write a [] => put (.write a []) (bitsOf 0)
  | .read a 0 _ =>
    put (.read a 0 s.epoch.count) (bitsOf ((if a = 0x1A then s.takeSnapshot else s).readRegister a))
  | ph => put ph (s.host.out.drop 1)

/-- SCK falls. -/
def State.sckFalls (s : State) : State :=
  let s := s.caughtUp
  if s.host.csHigh = true ∨ s.host.sckHigh = false then s
  else { s with host := { s.host with sckHigh := false } : State }.shifted

/-! ### Whole transactions -/

/-- One bit clocked: SDI is sampled on the rising edge, and SDO changes on the falling one. -/
def State.clocked (s : State) (sdi : Bool) : State := (s.sckRises sdi).sckFalls

/-- Bits clocked in one after the other: the levels of SDO that the host samples, and the state after them. -/
def clockBits : List Bool → State → List (Option Bool) × State
  | [], s => ([], s)
  | b :: bs, s =>
    let later := clockBits bs (s.clocked b)
    (s.sdo :: later.1, later.2)

/-- A transaction from the fall of CS# to its rise. -/
def spiTransaction (bits : List Bool) (s : State) : List (Option Bool) × State :=
  let run := clockBits bits s.csFalls
  (run.1, run.2.csRises)

end Sys2Proof.Machine
end

