-- ==== Sys2Proof/Safety.lean ====
section
/-! DEFINITION. What the spec says of the whole machine at every moment: the invariants that a safe run keeps. -/

namespace Sys2Proof.Machine

/-- R170: whenever an unmasked condition is active the unit is in ASSERTED, and otherwise it is not; a
RELEASING unit holds a countdown of 1 to 255. -/
structure InhibitOk (u : InhibitUnit) : Prop where
  asserted_iff : u.state = .asserted ↔ u.effective ≠ 0
  countdown : ∀ n, u.state = .releasing n → 1 ≤ n ∧ n ≤ 255

/-- R29, R30: no two entries of the change queue name the same record, every entry has a cause and names an
in-use record, and a record's queued field is yes exactly while the queue holds an entry for it. -/
structure QueueOk (s : State) : Prop where
  distinct : (s.queue.map ChangeEntry.record).Nodup
  caused : ∀ e ∈ s.queue, e.causes ≠ 0
  inUse : ∀ e ∈ s.queue, ∃ rec, s.record e.record = some rec
  queued_iff : ∀ r rec, s.record r = some rec → (rec.queued = true ↔ r ∈ s.queue.map ChangeEntry.record)

/-- R48: at most 4 holds, none twice, each of an in-use record; a record's held field is yes exactly while the
list holds an entry for it, and a record has a shadow only while it is held. -/
structure HoldsOk (s : State) : Prop where
  atMostFour : s.holds.length ≤ 4
  distinct : (s.holds.map Hold.record).Nodup
  inUse : ∀ h ∈ s.holds, ∃ rec, s.record h.record = some rec
  held_iff : ∀ r rec, s.record r = some rec → (rec.held = true ↔ r ∈ s.holds.map Hold.record)
  shadow_held : ∀ r rec, s.record r = some rec → rec.shadow.isSome = true → rec.held = true

/-- R136: requests and unpopped completions together never exceed 16, and no tag appears twice among them. -/
structure PoolOk (s : State) : Prop where
  atMostSixteen : s.requests.length + s.completions.length ≤ 16
  distinct : (s.requests.map Request.tag ++ s.completions.map Completion.tag).Nodup

/-- R2: at most one in-use record for every pair of node entry and item type. -/
def KeysOk (s : State) : Prop :=
  ∀ r r' rec rec', s.record r = some rec → s.record r' = some rec' → rec.entry = rec'.entry →
    rec.itemType = rec'.itemType → r = r'

/-- R94, R95, R106, R108: a port has a transaction in flight exactly while its sequencer is SENDING or AWAITING, and
while a retry of it is pending in QUIET; a DISABLED port has none. -/
structure PortState.Ok (ps : PortState) : Prop where
  idle_free : ps.sequencer = .idle → ps.transaction = none
  rest_retries : ps.isSending = false → ps.isAwaiting = false → ∀ t, ps.transaction = some t → t.retryPending = true
  busy_inFlight : ps.isSending = true ∨ ps.isAwaiting = true →
    ∃ t, ps.transaction = some t ∧ t.retryPending = false
  disabled_free : ps.link = .disabled → ps.transaction = none

/-- Both ports keep their transaction in agreement with their sequencer. -/
def PortsOk (s : State) : Prop := ∀ p, (s.port p).Ok

/-- What waits: no block has one mark outstanding twice, and a held part waits for the end of its hard reset
(R158, R192). -/
structure WaitingOk (s : State) : Prop where
  marks_distinct : s.marks.Nodup
  held_waits : s.held = true → s.pending.head? = some .hardReset

/-- The state after a release decision under a mode and a release delay (the table of R172). -/
def releasedState (mode : ReleaseMode) (delay : Octet) : InhibitState :=
  match mode with
  | .manual => .awaitingAck
  | .auto => if delay = 0 then .clear else .releasing delay.toNat

/-- No IDLE enabled port has an inhibit-gated request as its oldest WAITING one, so that a fall of INH starts
no arbiter (R96, R142). -/
def State.noneGated (s : State) : Prop :=
  ∀ p, (s.port p).enabled = true → (s.port p).isIdle = true → (s.oldestWaiting p).any Request.gated = false

/-- The inhibit unit once its conditions are `active` and its mask is `mask`: ASSERTED while one is effective
(R171), with the first-cause record taken at a change from CLEAR (R176), else a release decision from ASSERTED
(R172), else as it was. -/
def InhibitUnit.settled (u : InhibitUnit) (active mask : Octet) (epoch : Word16) : InhibitUnit :=
  if active &&& mask ≠ 0 then
    { u with
      active := active
      mask := mask
      state := .asserted
      firstCause := if u.state = .clear then lowestCondition (active &&& mask &&& ~~~u.effective) else u.firstCause
      firstEpoch := if u.state = .clear then epoch else u.firstEpoch }
  else
    { u with
      active := active
      mask := mask
      state := if u.state = .asserted then releasedState u.mode u.delay else u.state }

/-- The block once the conditions are `active` and the mask is `mask`: INHIBIT is raised where the level of INH
changes (R177). What a fall of INH starts at the arbiters is `afterInhibit`'s. -/
def State.inhSettled (s : State) (active mask : Octet) : State :=
  let u := s.inh.settled active mask s.epoch16
  { s with
    inh := u
    sticky := if u.state.inhAsserted = s.inh.state.inhAsserted then s.sticky else s.sticky ||| eventInhibit }

end Sys2Proof.Machine
end

