-- ==== Sys2Proof/Certificates/Slice0/Obligations.lean ====
section
/-! DEFINITION. The statements about the LQ-318 that the provers are asked for. A next state is written as a
change of the state before, so that every field not named is unchanged. -/

open Sys2Proof Sys2Proof.Machine

/-! ### The block as a whole -/

/-- One step with a command at the front of the queue is that command on the queue's rest (entry 1). -/
def Obligations.StepRunsFrontCommand : Prop :=
  ∀ (c : Instr) (rest : List Instr) (s : State),
    step { s with pending := c :: rest } = exec c { s with pending := rest }

/-- On an empty queue a held part does nothing; else, where no port's timer has run out, no mark is outstanding and no
epoch has its length, a step is 0.25 µs of every timer that runs; one thing that stands to come about does: the end of a
port's timer, as its own row gives it (R100, R103, R105), the boundary (R158), or a block's share of a mark; and of
several, one does (the model's choice, entries 1, 2, 6 and 14). -/
def Obligations.IdleQueuePassesTime : Prop :=
  ∀ s : State, s.pending = [] →
    let ripe := fun p : Port =>
      match (s.port p).sequencer with
      | .idle => false
      | .sending _ _ n => decide (n = 0)
      | .awaiting n => decide (n = 0)
      | .quiet _ n => decide (n = 0)
    let ending := decide (s.marks = []) && s.epoch.period.any fun n => decide (n.toNat * 400 ≤ s.epoch.elapsed)
    let takes := fun b : MarkBlock => b ∈ s.marks ∧ (b = .recordAccess → MarkBlock.captureTable ∉ s.marks)
    let ended := fun (t : State) (p : Port) =>
      match (t.port p).sequencer with
      | .idle => .next t
      | .sending _ _ _ => exec (.transmitCompletion p) t
      | .awaiting _ => exec (.responseTimeoutExpiry p) t
      | .quiet _ _ => exec (.quietIntervalExpiry p) t
    let boundary := fun t : State =>
      { t with
        marks := MarkBlock.all
        epoch :=
          { t.epoch with
            count := t.epoch.count + 1
            elapsed := 0
            pendingPeriod := none
            period :=
              match t.epoch.pendingPeriod with
              | none => t.epoch.period
              | some v => if v = 0 then none else some v } : State }
    let less := fun ps : PortState =>
      { ps with
        sequencer :=
          match ps.sequencer with
          | .idle => .idle
          | .sending f tmo n => .sending f tmo (n - 1)
          | .awaiting n => .awaiting (n - 1)
          | .quiet a n => .quiet a (n - 1) : PortState }
    (s.held = true → step s = .next s) ∧
    (s.held = false →
      ((∀ p, ripe p = false) → s.marks = [] → ending = false →
        step s = .next
          { s with
            portA := less s.portA
            portB := less s.portB
            epoch :=
              { s.epoch with
                elapsed := if s.epoch.period.isSome then s.epoch.elapsed + 1 else s.epoch.elapsed } }) ∧
      (∀ p, ripe p = true → (∀ q, ripe q = true → q = p) → s.marks = [] → ending = false → step s = ended s p) ∧
      ((∀ p, ripe p = false) → ending = true → step s = .next (boundary s)) ∧
      (∀ b, (∀ p, ripe p = false) → s.marks = [b] → step s = .next (s.takeMark b)) ∧
      ((∃ p, ripe p = true) ∨ ending = true ∨ s.marks ≠ [] →
        ∃ t ∈ [s, { s with choices := s.choices + 1 }],
          (∃ p, ripe p = true ∧ step s = ended t p) ∨ (ending = true ∧ step s = .next (boundary t)) ∨
            ∃ b, takes b ∧ step s = .next (t.takeMark b)))

/-- Every command completes but for two kinds of term that are no command of their row, which are refused
(entry 15). -/
def Obligations.OnlyIllFormedTermsAreRefused : Prop :=
  (∀ (c : Instr) (s : State), c.wellFormed = true → ∃ t, exec c s = .next t) ∧
  (∀ code ∈ commandCodes, ∀ s : State, exec (.badCommand code) s = .refused .notWellFormed) ∧
  (∀ a ∈ ownRowAddresses, ∀ (v : Octet) (s : State), exec (.registerWrite a v) s = .refused .notWellFormed) ∧
  ∀ (c : Instr) (s : State) (r : Refusal), exec c s = .refused r →
    (∃ code ∈ commandCodes, c = .badCommand code) ∨ ∃ a ∈ ownRowAddresses, ∃ v, c = .registerWrite a v

/-- A code written to CMD asks for the command that bears it, and every code for some command; a write to every other
address is its own row's or a plain write; in a write transaction the octet at position k is the write to the address k
further on, wrapping from 7Fh to 00h (R188, R189, R190, R194). Bit by bit, most significant first, and after every
command that waits, a transaction of a part that is not held shows the status octet, and then the octets read, or 00h in
a write, each octet of which acts when its eighth bit is sampled, before the next bit (R190); an octet cut short is
discarded, and SDO is left high-impedance (R188). Edges beside the queue, and a read of 1Ah: entry 11. -/
def Obligations.SpiWritesAreCommands : Prop :=
  let bits := fun o : Octet => (List.range 8).map fun k => o.getLsbD (7 - k)
  let atRest := fun t : State => { t with host := { csHigh := true, sckHigh := false, phase := .off, out := [] } : State }
  (∀ (c : Instr) (code : Octet), c.wellFormed = true → c.cmdCode = some code → hostWrite 0 code = c) ∧
  (∀ code : Octet, (hostWrite 0 code).wellFormed = true ∧ (hostWrite 0 code).cmdCode = some code) ∧
  (∀ v : Octet,
    hostWrite 0x0C v = .evfWrite .low v ∧ hostWrite 0x0D v = .evfWrite .high v ∧
    hostWrite 0x0E v = .eveWrite .low v ∧ hostWrite 0x0F v = .eveWrite .high v ∧ hostWrite 0x12 v = .inhmWrite v ∧
    hostWrite 0x18 v = .eppLowWrite v ∧ hostWrite 0x19 v = .periodWrite v) ∧
  (∀ (a : Addr) (v : Octet), a ∉ ownRowAddresses → hostWrite a v = .registerWrite a v) ∧
  (∀ (a : Addr) (data : List Octet),
    spiCommands (((1 : BitVec 1) ++ a : BitVec 8) :: data) =
      data.mapIdx fun k v => hostWrite (a + BitVec.ofNat 7 k) v) ∧
  (∀ s : State, s.held = true ∨ s.host.csHigh = true → s.sdo = none) ∧
  (∀ (s : State) (b : Bool), s.csFalls = s.caughtUp.csFalls ∧ s.clocked b = s.caughtUp.clocked b) ∧
  (∀ (s t : State) (c : Instr) (rest : List Instr), s.held = false → t.held = false → t.pending = rest →
    exec c { s with pending := rest } = .next t → { s with pending := c :: rest }.caughtUp = t.caughtUp) ∧
  (∀ s : State, s.held = true ∨ s.pending = [] → s.caughtUp = s) ∧
  (∀ (s : State) (a : Addr) (v : Octet),
    s.held = false → s.pending = [] →
    s.host = { csHigh := false, sckHigh := false, phase := .write a [], out := bits 0 } →
    let next : HostPort := { csHigh := false, sckHigh := true, phase := .write (a + 1) [], out := [false] }
    ∃ t, exec (hostWrite a v) { s with host := next } = .next t ∧
      clockBits (bits v) s =
        (List.replicate 8 (some false), { t with host := { next with sckHigh := false, out := bits 0 } }) ∧
      t.held = false ∧ t.pending = []) ∧
  ∀ (s : State) (cut : List Bool), s.held = false → s.pending = [] → cut.length < 8 →
    (∀ (a : Addr), s.host = { csHigh := false, sckHigh := false, phase := .write a [], out := bits 0 } →
      (clockBits cut s).2.csRises = atRest s) ∧
    (s.host.csHigh = true →
      spiTransaction cut s = (((bits s.statusOctet).take cut.length).map Option.some, atRest s) ∧
      ∀ (a : Addr) (data : List Octet),
        clockBits (bits ((1 : BitVec 1) ++ a : BitVec 8)) s.csFalls =
          ((bits s.statusOctet).map Option.some,
            { s with host := { csHigh := false, sckHigh := false, phase := .write a [], out := bits 0 } }) ∧
        (let clocked := ((((0 : BitVec 1) ++ a : BitVec 8) :: data).flatMap bits) ++ cut
         spiTransaction clocked s =
           ((((s.statusOctet :: (spiRead a (data.length + 1) s).1).flatMap bits).take clocked.length).map Option.some,
             atRest (spiRead a data.length s).2)))

/-! ### Resets and refused codes -/

/-- HARD_RESET (R192): the hard reset values of every block, as R26, R41, R57, R69, R88, R92, R112, R134, R155,
R163, R179, R186 and R190 give them, and what the window then reads (R194). The heard marks, the deframers and
the receivers are the model's choice (entry 10), and so is that outstanding marks go (entry 2) and the sender's queue
stays (entry 12). A part whose RESET# has fallen is held,
with the pins as R192 gives them: it takes nothing, and waits for that reset; after it no transaction is taken whose CS#
fell before. -/
def Obligations.HardResetValues : Prop :=
  ∀ s : State, ∃ t, exec .hardReset s = .next t ∧
    (∀ r, t.record r = none) ∧ t.evictions = 0 ∧ t.drops = 0 ∧ t.shadowOverwrites = 0 ∧ t.queue = [] ∧
    t.holds = [] ∧ t.view = Vector.replicate 48 0 ∧ (∀ i, t.filter i = Filter.disabled) ∧
    (∀ p, t.port p =
      { link := .disabled, storedRate := .m1, lineRate := .m1, silence := 0, counters := .zero, windowEpochs := 0,
        windowCrc := 0, fired := false, transmitCount := 0, deframer := .hunting, receiver := { idle := 0, bits := none }
        sequencer := .idle, transaction := none, heard := false, lastGrant := .request, dueList := [] }) ∧
    (∀ e, t.node e = NodeEntry.vacant) ∧ t.requests = [] ∧ t.completions = [] ∧
    t.epoch = { period := some 100, pendingPeriod := none, elapsed := 0, count := 0, heldLow := 0x64, snapshot := 0 } ∧
    t.inh = { state := .asserted, active := 0x01, mask := 0xFF, mode := .auto, delay := 10, firstCause := .startup,
              firstEpoch := 0 } ∧
    t.flags = 0 ∧ t.enables = 0 ∧ t.irq = false ∧ t.inhAsserted = true ∧ t.statusOctet = 0x02 ∧
    t.pending = s.pending ∧ t.held = false ∧ t.marks = [] ∧
    t.host = { csHigh := s.host.csHigh, sckHigh := s.host.sckHigh, phase := .off, out := [] } ∧
    (let h := s.resetFalls
     h.held = true ∧ h.pending = [.hardReset] ∧ h.host.phase = .off ∧
     (∀ cs : List Instr, h.send cs = h) ∧ step h = exec .hardReset { h with pending := [] } ∧
     (∀ (bits : List Bool) (u : State), u.held = true → u.host.phase = .off →
       spiTransaction bits u =
         (List.replicate bits.length none,
           { u with host := { csHigh := true, sckHigh := false, phase := .off, out := [] } })) ∧
     (∀ (p : Port) (levels : List Bool), h.lineBits p levels = h) ∧
     h.pins =
       { irqHigh := true, inhHigh := true, dea := false, deb := false, txaHigh := true, txbHigh := true, sdo := none }) ∧
    (s.host.csHigh = false → s.pending = [] → ∀ bits : List Bool, ∃ sckHigh,
      clockBits bits t = (List.replicate bits.length none, { t with host := { t.host with sckHigh } })) ∧
    (List.range 128).map (fun a => t.readRegister (BitVec.ofNat 7 a)) =
      List.replicate 16 0x00 ++ [0x01, 0x01, 0xFF, 0x00, 0x0A, 0x00, 0x00, 0x00, 0x64, 0x00] ++
      [0x00, 0x00, 0x00, 0x00, 0x00, 0x01] ++ List.replicate 80 0x00 ++
      [0x01, 0x01, 0x28, 0x05, 0x04, 0x08, 0x10, 0x00, 0x00, 0x00, 0x00, 0xFF, 0xFF, 0xFF, 0xFF, 0x00]

/-- SOFT_RESET (R193): dynamic state to its reset values, configuration kept (R27, R41, R57, R69, R93, R112, R135,
R155, R163, R179, R186, R190); with STARTUP masked the release decision follows at once. That the heard mark of an
abandoned attempt stays, and the receivers of the line, is the model's choice (entries 10 and 19), and so are the
outstanding marks (entry 2). Unit of time: entry 14. -/
def Obligations.SoftResetValues : Prop :=
  ∀ s : State, ∃ t, exec .softReset s = .next t ∧
    t = { s with
          cmd := 0x5A, rslt := .ok, res := Vector.replicate 6 0, view := Vector.replicate 48 0, holds := []
          records := Vector.replicate 48 none, evictions := 0, drops := 0, shadowOverwrites := 0, queue := []
          portA := t.portA, portB := t.portB, nodes := t.nodes, requests := [], completions := []
          epoch := { s.epoch with count := 0, snapshot := 0 }, inh := t.inh, sticky := t.sticky, marks := [] } ∧
    (∀ p, t.port p =
      { s.port p with
        link := if (s.port p).link = .disabled then .disabled else .searching
        silence := 0, counters := .zero, windowEpochs := 0, windowCrc := 0, fired := false, transmitCount := 0
        deframer := .hunting
        sequencer := if (s.port p).link = .disabled then (s.port p).sequencer else .quiet none (s.qgap.toNat * 40)
        transaction := none, lastGrant := .request, dueList := [] }) ∧
    (∀ e, t.node e =
      { s.node e with
        state := if (s.node e).state = .vacant ∨ (s.node e).state = .disabled then (s.node e).state else .probing
        notice := false, countdown := 0, missCount := 0, lastSequence := none, gaps := 0, duplicates := 0
        lates := 0, slips := 0, polled := false }) ∧
    t.inh =
      { s.inh with
        state := if s.inh.mask.getLsbD 0 then .asserted else releasedState s.inh.mode s.inh.delay
        active := 0x01, firstCause := .startup, firstEpoch := 0 } ∧
    t.sticky = if t.inh.state = .clear then eventInhibit else 0

/-- BAD_COMMAND (R190, R191): a code that names no command is refused with BAD_COMMAND and changes nothing but
CMD and the result registers. -/
def Obligations.BadCommandRefused : Prop :=
  ∀ (code : Octet) (s : State), code ∉ commandCodes →
    exec (.badCommand code) s = .next { s with cmd := code, rslt := .badCommand, res := #v[0, 0, 0, 0, 0, 0] }

/-! ### Views -/

/-- VIEW_RECORD (R43) with the record view's fields (R44) in the layout of R197, all of one moment (R47): a mark that has
been emitted has reached every block, so that the copy is of the state after it (marks outstanding: entry 2). -/
def Obligations.ViewRecordCopies : Prop :=
  ∀ s : State,
    let r := (s.arg 0).toNat
    let u := MarkBlock.all.foldl State.takeMark s
    let shown := fun os : List Octet => (Vector.replicate 48 (0 : Octet)).mapIdx fun k _ => os.getD k 0
    (s.marks = [] → u = s) ∧ (s.marks.Nodup → u.marks = []) ∧
    exec .viewRecord s = .next
      (if r > 47 then { s with cmd := 0x10, rslt := .badArgument, res := #v[0, 0, 0, 0, 0, 0] }
      else
        match u.record r with
        | none => { u with cmd := 0x10, rslt := .noRecord, res := #v[0, 0, 0, 0, 0, 0], view := Vector.replicate 48 0 }
        | some rec =>
          { u with
            cmd := 0x10
            rslt := .ok
            res := #v[0, 0, 0, 0, 0, 0]
            view := shown
              ([0x01, octetOf r, octetOf rec.entry, rec.itemType.setWidth 8,
                match rec.state with
                | .live => 1
                | .stale => 2
                | .orphan => 3,
                octetOf rec.payload.length] ++
              (rec.payload ++ List.replicate 24 0).take 24 ++
              [rec.sequence, octetOf rec.age, rec.updateCount.truncate 8, (rec.updateCount >>> 8).truncate 8,
               octetOf rec.filterIndex,
               match rec.policy with
               | .onChange => 0
               | .onUpdate => 1
               | .silent => 2,
               octetOf rec.staleLimit,
               flagBit 0 rec.inhibit ||| flagBit 1 rec.pinned ||| flagBit 2 rec.queued ||| flagBit 3 rec.held |||
                 flagBit 4 (rec.held && rec.shadow.isSome),
               match u.holds.find? fun h => h.record = r with
               | some h => octetOf h.age
               | none => 0,
               u.epoch.count.truncate 8, (u.epoch.count >>> 8).truncate 8]) })

/-- VIEW_NODE (R45) in the layout of R197, all of one moment (R47), with a mark that has been emitted taken first by every
block (marks outstanding: entry 2). -/
def Obligations.ViewNodeCopies : Prop :=
  ∀ s : State,
    let e := (s.arg 0).toNat
    let u := MarkBlock.all.foldl State.takeMark s
    let n := u.node e
    let shown := fun os : List Octet => (Vector.replicate 48 (0 : Octet)).mapIdx fun k _ => os.getD k 0
    exec .viewNode s = .next
      (if e > 31 then { s with cmd := 0x11, rslt := .badArgument, res := #v[0, 0, 0, 0, 0, 0] }
      else
        { u with
          cmd := 0x11
          rslt := .ok
          res := #v[0, 0, 0, 0, 0, 0]
          view := shown
            ((if n.state = .vacant then [0x02, octetOf e] ++ List.replicate 14 0
            else
              [0x02, octetOf e,
               match n.state with
               | .vacant => 0
               | .disabled => 1
               | .probing => 2
               | .present => 3
               | .suspect => 4
               | .absent => 5,
               flagBit 0 n.notice ||| flagBit 1 (decide (n.port = .B)) ||| flagBit 2 n.inhibit |||
                 flagBit 3 (n.polled || (u.port n.port).dueList.contains e) ||| flagBit 4 n.lastSequence.isSome,
               octetOf n.address, octetOf n.pollInterval, octetOf n.retryLimit, octetOf n.absentThreshold,
               octetOf n.countdown, octetOf n.missCount, n.lastSequence.getD 0, octetOf n.gaps,
               octetOf n.duplicates, octetOf n.lates, octetOf n.slips,
               octetOf ((List.range 48).filter fun r => (u.record r).any fun rec => rec.entry = e).length]) ++
            [u.epoch.count.truncate 8, (u.epoch.count >>> 8).truncate 8]) })

/-- VIEW_PORT (R46) in the layout of R197, all of one moment (R47), with a mark that has been emitted taken first by every
block (marks outstanding: entry 2). -/
def Obligations.ViewPortCopies : Prop :=
  ∀ s : State,
    let u := MarkBlock.all.foldl State.takeMark s
    let ps := u.port (if s.arg 0 = 0 then .A else .B)
    let two := fun n : Nat => [octetOf (n % 256), octetOf (n / 256)]
    let shown := fun os : List Octet => (Vector.replicate 48 (0 : Octet)).mapIdx fun k _ => os.getD k 0
    exec .viewPort s = .next
      (if (s.arg 0).toNat > 1 then { s with cmd := 0x12, rslt := .badArgument, res := #v[0, 0, 0, 0, 0, 0] }
      else
        { u with
          cmd := 0x12
          rslt := .ok
          res := #v[0, 0, 0, 0, 0, 0]
          view := shown
            ([0x03, s.arg 0,
              match ps.link with
              | .disabled => 0
              | .searching => 1
              | .up => 2
              | .down => 3,
              octetOf ps.silence] ++
            two ps.counters.crcErrors ++ two ps.counters.formatErrors ++ two ps.counters.foreign ++
            two ps.counters.stray ++ two ps.counters.late ++ two ps.counters.unknownSource ++ two ps.counters.noReply ++
            two ps.counters.discarded ++ [octetOf (u.records.toList.filter Option.isSome).length] ++ two u.evictions ++
            two u.drops ++ two u.shadowOverwrites ++ [u.epoch.count.truncate 8, (u.epoch.count >>> 8).truncate 8]) })

/-! ### The change queue -/

/-- POP_CHANGE (R35) and PEEK_CHANGE (R36), in the coding of R198. -/
def Obligations.ChangeQueueReads : Prop :=
  ∀ s : State,
    exec .popChange s = .next
      (match s.queue with
      | [] => { s with cmd := 0x18, rslt := .empty, res := #v[0xFF, 0, 0, 0, 0, 0] }
      | e :: rest =>
        { s with
          cmd := 0x18
          rslt := .ok
          res := #v[octetOf e.record, e.causes.setWidth 8, octetOf rest.length, 0, 0, 0]
          queue := rest
          records := s.records.mapIdx fun r x =>
            if r = e.record then x.map fun rec => { rec with queued := false } else x }) ∧
    exec .peekChange s = .next
      (match s.queue with
      | [] => { s with cmd := 0x19, rslt := .empty, res := #v[0xFF, 0, 0, 0, 0, 0] }
      | e :: rest =>
        { s with
          cmd := 0x19
          rslt := .ok
          res := #v[octetOf e.record, e.causes.setWidth 8, octetOf (rest.length + 1), 0, 0, 0] })

/-! ### The register window -/

/-- What the host reads of the state at every address (R188, R189, R194, R195): CMD, the arguments, RSLT in the codes of
R191, the result octets, event flags and enables, the inhibit unit, the epoch timer and its snapshot, link states, the
staging area, the view buffer, the configuration registers, QLEN (R39), POOL (R153), HOLDS (R56), the unused address; and
the status octet. -/
def Obligations.WindowShowsState : Prop :=
  ∀ s : State,
    let link : PortState → Nat := fun ps =>
      match ps.link with
      | .disabled => 0
      | .searching => 1
      | .up => 2
      | .down => 3
    let rate : PortState → Octet := fun ps =>
      match ps.storedRate with
      | .k250 => 0
      | .m1 => 1
      | .m2 => 2
      | .m4 => 3
    let result : Octet :=
      match s.rslt with
      | .ok => 0x00
      | .empty => 0x01
      | .full => 0x02
      | .noRecord => 0x03
      | .held => 0x04
      | .notHeld => 0x05
      | .holdLimit => 0x06
      | .tagInUse => 0x07
      | .noTag => 0x08
      | .wrongState => 0x09
      | .portOff => 0x0A
      | .badArgument => 0x0B
      | .badCommand => 0x0C
    let period : Word16 :=
      match s.epoch.pendingPeriod, s.epoch.period with
      | some v, _ => v
      | none, some n => n
      | none, none => 0
    let held : Nat → Octet := fun k =>
      match s.holds[k]? with
      | some h => octetOf h.record
      | none => 0xFF
    s.readRegister 0x00 = s.cmd ∧ s.readRegister 0x05 = result ∧
    (∀ k < 4, s.readRegister (BitVec.ofNat 7 (0x01 + k)) = (s.args[k]?).getD 0) ∧
    (∀ k < 6, s.readRegister (BitVec.ofNat 7 (0x06 + k)) = (s.res[k]?).getD 0) ∧
    (∀ k < 32, s.readRegister (BitVec.ofNat 7 (0x20 + k)) = (s.staging[k]?).getD 0) ∧
    (∀ k < 48, s.readRegister (BitVec.ofNat 7 (0x40 + k)) = (s.view[k]?).getD 0) ∧
    ([0x1A, 0x1B, 0x1C, 0x1D].map fun a : Addr => s.readRegister a) =
      [s.epoch.snapshot.extractLsb' 0 8, s.epoch.snapshot.extractLsb' 8 8, s.epoch.snapshot.extractLsb' 16 8,
       s.epoch.snapshot.extractLsb' 24 8] ∧
    ([0x70, 0x71, 0x72, 0x73, 0x74, 0x75, 0x76, 0x77, 0x78].map fun a : Addr => s.readRegister a) =
      [rate s.portA, rate s.portB, s.tmo, s.qgap, s.silim, s.crct, s.crcw, s.hlim,
       match s.defa with
       | .discard => 0
       | .capture => 1] ∧
    ([0x0C, 0x0D, 0x0E, 0x0F].map fun a : Addr => s.readRegister a) =
      [s.flags.truncate 8, flagBit 0 (s.flags.getLsbD 8), s.enables.truncate 8, flagBit 0 (s.enables.getLsbD 8)] ∧
    ([0x10, 0x11, 0x12, 0x13, 0x14].map fun a : Addr => s.readRegister a) =
      [match s.inh.state with
       | .clear => 0
       | .asserted => 1
       | .releasing _ => 2
       | .awaitingAck => 3,
       s.inh.active, s.inh.mask,
       match s.inh.mode with
       | .auto => 0
       | .manual => 1,
       s.inh.delay] ∧
    ([0x15, 0x16, 0x17].map fun a : Addr => s.readRegister a) =
      [match s.inh.firstCause with
       | .startup => 0
       | .force => 1
       | .portADown => 2
       | .portBDown => 3
       | .nodeLost => 4
       | .dataStale => 5
       | .linkErrors => 6
       | .tableFull => 7,
       s.inh.firstEpoch.truncate 8, (s.inh.firstEpoch >>> 8).truncate 8] ∧
    ([0x18, 0x19, 0x1E, 0x1F].map fun a : Addr => s.readRegister a) =
      [period.truncate 8, (period >>> 8).truncate 8, octetOf (link s.portA + 4 * link s.portB),
       flagBit 0 s.epoch.period.isSome ||| flagBit 1 s.epoch.pendingPeriod.isSome] ∧
    ([0x79, 0x7A, 0x7B, 0x7C, 0x7D, 0x7E, 0x7F].map fun a : Addr => s.readRegister a) =
      [octetOf s.queue.length,
       if s.requests.length = 16 then 0xFF
       else if s.completions.length = 16 then 0xEE
       else octetOf (16 * s.requests.length + s.completions.length),
       held 0, held 1, held 2, held 3, 0] ∧
    s.statusOctet = flagBit 0 s.irq ||| flagBit 1 (decide (s.inh.state ≠ .clear))

/-! ### Records -/

/-- PIN and UNPIN (R20), and RELEASE (R21) with freeing as R18 gives it: the queue entry goes, the record becomes FREE,
and the DATA_STALE level is reported if the record counted toward it (R24). -/
def Obligations.RecordCommandsPinAndRelease : Prop :=
  ∀ s : State,
    let r := (s.arg 0).toNat
    let answer := fun (code : Octet) (c : ResultCode) => { s with cmd := code, rslt := c, res := #v[0, 0, 0, 0, 0, 0] : State }
    let pinning := fun (code : Octet) (pinned : Bool) =>
      if r > 47 then answer code .badArgument
      else
        match s.record r with
        | none => answer code .noRecord
        | some rec => { answer code .ok with records := s.records.setIfInBounds r (some { rec with pinned := pinned }) }
    exec .pin s = .next (pinning 0x20 true) ∧
    exec .unpin s = .next (pinning 0x21 false) ∧
    exec .release s = .next
      (if r > 47 then answer 0x22 .badArgument
      else
        match s.record r with
        | none => answer 0x22 .noRecord
        | some rec =>
          if rec.held then answer 0x22 .held
          else
            let freed : State :=
              { s with
                cmd := 0x22
                records := s.records.setIfInBounds r none
                queue := s.queue.filter fun e => e.record ≠ r }
            let reported :=
              if rec.inhibit = true ∧ rec.state ≠ .live then freed.report .dataStale freed.dataStaleLevel else freed
            { reported with rslt := .ok, res := #v[0, 0, 0, 0, 0, 0] })

/-- FLUSH (R22): every in-use record that is neither pinned nor held becomes FREE, their queue entries go, RES0 is
their number, and DATA_STALE is reported once. -/
def Obligations.FlushFreesUnprotected : Prop :=
  ∀ s : State,
    let frees := fun rec : Record => decide (rec.pinned = false ∧ rec.held = false)
    let freed : State :=
      { s with
        cmd := 0x23
        records := s.records.map fun x => x.filter fun rec => !frees rec
        queue := s.queue.filter fun e => !(s.record e.record).any frees }
    exec .flush s = .next
      { freed.report .dataStale freed.dataStaleLevel with
        rslt := .ok
        res := #v[octetOf ((List.range 48).filter fun r => (s.record r).any frees).length, 0, 0, 0, 0, 0] }

/-! ### Holds -/

/-- HOLD (R49), and HOLD_SET (R50): the first failing check at the first failing position decides, and nothing is held;
else all the records become held, in argument order. -/
def Obligations.HoldsAreTakenWhole : Prop :=
  ∀ s : State,
    let r := (s.arg 0).toNat
    let count := (s.arg 0).toNat
    let given := [(s.arg 1).toNat, (s.arg 2).toNat, (s.arg 3).toNat, (s.stg 0).toNat].take count
    let check := fun k : Nat =>
      let r := given.getD k 0
      if r > 47 then ResultCode.badArgument
      else
        match s.record r with
        | none => .noRecord
        | some rec =>
          if rec.held = true ∨ r ∈ given.take k then .held
          else if s.holds.length + k + 1 > 4 then .holdLimit
          else .ok
    exec .hold s = .next
      (if r > 47 then { s with cmd := 0x28, rslt := .badArgument, res := #v[0, 0, 0, 0, 0, 0] }
      else
        match s.record r with
        | none => { s with cmd := 0x28, rslt := .noRecord, res := #v[0, 0, 0, 0, 0, 0] }
        | some rec =>
          if rec.held then { s with cmd := 0x28, rslt := .held, res := #v[0, 0, 0, 0, 0, 0] }
          else if s.holds.length ≥ 4 then { s with cmd := 0x28, rslt := .holdLimit, res := #v[0, 0, 0, 0, 0, 0] }
          else
            { s with
              cmd := 0x28
              rslt := .ok
              res := #v[octetOf (s.holds.length + 1), 0, 0, 0, 0, 0]
              holds := s.holds ++ [⟨r, 0⟩]
              records := s.records.setIfInBounds r (some { rec with held := true, shadow := none }) }) ∧
    exec .holdSet s = .next
      (if count = 0 ∨ count > 4 then { s with cmd := 0x29, rslt := .badArgument, res := #v[0, 0, 0, 0, 0, 0] }
      else
        match (List.range count).find? fun k => check k ≠ .ok with
        | some k => { s with cmd := 0x29, rslt := check k, res := #v[octetOf k, 0, 0, 0, 0, 0] }
        | none =>
          { s with
            cmd := 0x29
            rslt := .ok
            res := #v[octetOf (s.holds.length + count), 0, 0, 0, 0, 0]
            holds := s.holds ++ given.map fun r => ⟨r, 0⟩
            records := s.records.mapIdx fun r x =>
              if r ∈ given then x.map fun rec => { rec with held := true, shadow := none } else x })

/-- UNHOLD (R51), with the shadow applied as R12 lays down under the change detection of R10. -/
def Obligations.UnholdAppliesShadow : Prop :=
  ∀ s : State,
    let r := (s.arg 0).toNat
    let rest := s.holds.filter fun h => h.record ≠ r
    let answer := fun c : ResultCode => { s with cmd := 0x2A, rslt := c, res := #v[0, 0, 0, 0, 0, 0] : State }
    exec .unhold s = .next
      (if r > 47 then answer .badArgument
      else
        match s.record r with
        | none => answer .notHeld
        | some rec =>
          if rec.held = false then answer .notHeld
          else
            match rec.shadow with
            | none =>
              { s with
                cmd := 0x2A, rslt := .ok, res := #v[0, octetOf rest.length, 0, 0, 0, 0], holds := rest
                records := s.records.setIfInBounds r (some { rec with held := false }) }
            | some sh =>
              let counted := sh.payload ≠ rec.payload ∨ rec.policy = .onUpdate
              let sent := counted ∧ rec.policy ≠ .silent
              { s with
                cmd := 0x2A, rslt := .ok, res := #v[1, octetOf rest.length, 0, 0, 0, 0], holds := rest
                records := s.records.setIfInBounds r (some
                  { rec with
                    held := false, shadow := none, sequence := sh.sequence, payload := sh.payload
                    updateCount := if counted then rec.updateCount + 1 else rec.updateCount
                    queued := if sent then true else rec.queued })
                queue :=
                  if sent then
                    if rec.queued then
                      s.queue.map fun e => if e.record = r then { e with causes := e.causes ||| 0x02 } else e
                    else s.queue ++ [⟨r, 0x02⟩]
                  else s.queue })
/-! ### Filters and node entries -/

/-- FILTER_SET (R66): the checks in their order, and what is stored. -/
def Obligations.FilterSetStoresFilter : Prop :=
  ∀ s : State,
    let i := (s.arg 0).toNat
    let o := fun k : Nat => (s.stg k).toNat
    let refused : State := { s with cmd := 0x30, rslt := .badArgument, res := #v[0, 0, 0, 0, 0, 0] }
    let stored := fun f : Filter =>
      let fs := s.filters.setIfInBounds i f
      { s with
        cmd := 0x30
        rslt := .ok
        res := #v[octetOf (fs.toList.filter fun g => g.enabled).length, 0, 0, 0, 0, 0]
        filters := fs : State }
    let common : Filter :=
      { enabled := true
        portMatch := if o 1 = 0 then .only .A else if o 1 = 1 then .only .B else .either
        addressLow := o 2, addressHigh := o 3, typeValue := (s.stg 4).truncate 7, typeMask := (s.stg 5).truncate 7
        action := .discard, policy := .onChange, staleLimit := 0, inhibit := false, pinOnAllocate := false }
    exec .filterSet s = .next
      (if i > 15 then refused
      else if o 0 > 1 then refused
      else if o 0 = 0 then
        stored
          { enabled := false, portMatch := .only .A, addressLow := 0, addressHigh := 0, typeValue := 0, typeMask := 0,
            action := .discard, policy := .onChange, staleLimit := 0, inhibit := false, pinOnAllocate := false }
      else if o 1 > 2 ∨ o 2 < 1 ∨ o 2 > 62 ∨ o 3 < 1 ∨ o 3 > 62 ∨ o 4 > 127 ∨ o 5 > 127 ∨ o 6 > 1 then refused
      else if o 6 = 0 then stored common
      else if o 7 > 2 ∨ o 9 > 1 ∨ o 10 > 1 then refused
      else
        stored
          { common with
            action := .capture
            policy := if o 7 = 0 then .onChange else if o 7 = 1 then .onUpdate else .silent
            staleLimit := o 8, inhibit := decide (o 9 = 1), pinOnAllocate := decide (o 10 = 1) })

/-- NODE_SET (R117): the five checks in their order, and the entry that is stored. -/
def Obligations.NodeSetStoresEntry : Prop :=
  ∀ s : State,
    let e := (s.arg 0).toNat
    let old := s.node e
    let o := fun k : Nat => (s.stg k).toNat
    let port : Port := if o 0 = 0 then .A else .B
    let answer := fun c : ResultCode => { s with cmd := 0x38, rslt := c, res := #v[0, 0, 0, 0, 0, 0] : State }
    exec .nodeSet s = .next
      (if e > 31 then answer .badArgument
      else if old.state ≠ .vacant ∧ old.state ≠ .disabled then answer .wrongState
      else if o 0 > 1 ∨ o 1 < 1 ∨ o 1 > 62 ∨ o 2 = 0 ∨ o 3 > 7 ∨ o 4 < 1 ∨ o 4 > 15 ∨ o 5 > 1 then
        answer .badArgument
      else if ∃ i ∈ List.range 32, i ≠ e ∧ (s.node i).state ≠ .vacant ∧ (s.node i).port = port ∧ (s.node i).address = o 1 then
        answer .badArgument
      else if old.state = .disabled ∧ (∃ r ∈ List.range 48, ((s.record r).any fun rec => rec.entry = e) = true) ∧
          (port ≠ old.port ∨ o 1 ≠ old.address) then
        answer .wrongState
      else
        { answer .ok with
          nodes := s.nodes.setIfInBounds e
            { port, address := o 1, pollInterval := o 2, retryLimit := o 3, absentThreshold := o 4
              inhibit := decide (o 5 = 1), state := .disabled, notice := false, countdown := 0, missCount := 0
              lastSequence := none, gaps := 0, duplicates := 0, lates := 0, slips := 0, polled := false } })

/-- NODE_ENABLE (R118): the entry becomes PROBING, and on an enabled port it falls due at once: it joins the tail
of the due list, or slips, with its countdown reloaded (R130); a join is evaluated by the arbiter (R96). -/
def Obligations.NodeEnableProbes : Prop :=
  ∀ s : State,
    let e := (s.arg 0).toNat
    let n := s.node e
    let probing : NodeEntry := { n with state := .probing, missCount := 0, lastSequence := none, countdown := 0 }
    let answer := fun c : ResultCode => { s with cmd := 0x39, rslt := c, res := #v[0, 0, 0, 0, 0, 0] : State }
    exec .nodeEnable s = .next
      (if e > 31 then answer .badArgument
      else if n.state ≠ .disabled then answer .wrongState
      else if (s.port n.port).link = .disabled then
        { answer .ok with nodes := s.nodes.setIfInBounds e probing }
      else if n.polled = true ∨ e ∈ (s.port n.port).dueList then
        { answer .ok with
          nodes := s.nodes.setIfInBounds e
            { probing with countdown := n.pollInterval, slips := min 255 (n.slips + 1) }
          sticky := s.sticky ||| eventSlip }
      else
        let joined : State :=
          { s with cmd := 0x39, nodes := s.nodes.setIfInBounds e { probing with countdown := n.pollInterval } }
        { (joined.setPort n.port { s.port n.port with dueList := (s.port n.port).dueList ++ [e] }).evaluate n.port with
          rslt := .ok
          res := #v[0, 0, 0, 0, 0, 0] })

/-- NODE_DISABLE (R119): the entry leaves the due list, its poll cycle is detached, it is DISABLED, and the node
notice makes its LIVE and STALE records ORPHAN in ascending index (R16); the levels of DATA_STALE and, for a
counted ABSENT entry, NODE_LOST are reported. -/
def Obligations.NodeDisableOrphans : Prop :=
  ∀ s : State,
    let e := (s.arg 0).toNat
    let n := s.node e
    let lost := fun rec : Record => decide (rec.entry = e ∧ rec.state ≠ .orphan)
    let told := fun r : Nat => (s.record r).any fun rec => lost rec && decide (rec.policy ≠ .silent)
    let queued := fun r : Nat => (s.record r).any fun rec => rec.queued
    let port := s.port n.port
    let off : State :=
      { s with
        cmd := 0x3A
        nodes := s.nodes.setIfInBounds e { n with polled := false, state := .disabled }
        records := s.records.map fun x => x.map fun rec =>
          if lost rec then { rec with state := .orphan, queued := rec.queued || decide (rec.policy ≠ .silent) } else rec
        queue :=
          (s.queue.map fun q =>
            if told q.record && queued q.record then { q with causes := q.causes ||| 0x10 } else q) ++
          ((List.range 48).filter fun r => told r && !queued r).map (fun r => ⟨r, 0x10⟩) }
    let off := off.setPort n.port
      { port with
        dueList := port.dueList.erase e
        transaction := port.transaction.map fun t => if t.entry = some e then { t with entryLost := true } else t }
    let noticed := off.setCondition .dataStale off.dataStaleLevel
    exec .nodeDisable s = .next
      (if e > 31 then { s with cmd := 0x3A, rslt := .badArgument, res := #v[0, 0, 0, 0, 0, 0] }
      else if n.state = .vacant ∨ n.state = .disabled then
        { s with cmd := 0x3A, rslt := .wrongState, res := #v[0, 0, 0, 0, 0, 0] }
      else
        { (if n.state = .absent ∧ n.inhibit = true then noticed.report .nodeLost noticed.nodeLostLevel else noticed) with
          rslt := .ok
          res := #v[0, 0, 0, 0, 0, 0] })

/-- NODE_REMOVE (R120): the three checks; else the entry's records become FREE and leave the change queue, RES0 is
their number, and the entry is VACANT. The records are freed in ascending order, and each one that counted toward
DATA_STALE has it reported (R18, R24); of the capture table and the change queue no more changes, whatever a report
starts at the arbiters; and where the level stands as reported and a fall of INH starts none, there is one report. Ports
are as every run has them (`PortsOk`). -/
def Obligations.NodeRemoveFreesRecords : Prop :=
  ∀ s : State,
    let e := (s.arg 0).toNat
    let owned := fun r : Nat => (s.record r).any fun rec => decide (rec.entry = e)
    let count := ((List.range 48).filter owned).length
    let answer := fun c : ResultCode => { s with cmd := 0x3B, rslt := c, res := #v[0, 0, 0, 0, 0, 0] : State }
    let freed : State :=
      { s with
        cmd := 0x3B
        records := s.records.map fun x => x.filter fun rec => decide (rec.entry ≠ e)
        queue := s.queue.filter fun q => !owned q.record }
    let freeOne := fun (t : State) (r : Nat) =>
      let u := { t with records := t.records.setIfInBounds r none, queue := t.queue.filter fun q => q.record ≠ r : State }
      if (t.record r).any fun rec => rec.inhibit && decide (rec.state ≠ .live) then
        u.report .dataStale u.dataStaleLevel
      else u
    let all := ((List.range 48).filter owned).foldl freeOne { s with cmd := 0x3B }
    (e > 31 → exec .nodeRemove s = .next (answer .badArgument)) ∧
    (e ≤ 31 → (s.node e).state ≠ .disabled → exec .nodeRemove s = .next (answer .wrongState)) ∧
    (e ≤ 31 → (s.node e).state = .disabled → PortsOk s →
      ((∃ rec, some rec ∈ s.records ∧ rec.entry = e ∧ rec.held = true) →
        exec .nodeRemove s = .next (answer .held)) ∧
      ((∀ rec, some rec ∈ s.records → rec.entry = e → rec.held = false) →
        exec .nodeRemove s = .next
          { all with
            rslt := .ok
            res := #v[octetOf count, 0, 0, 0, 0, 0]
            nodes := all.nodes.setIfInBounds e NodeEntry.vacant } ∧
        (∃ t, exec .nodeRemove s = .next t ∧
          t = { freed with
                rslt := .ok, res := #v[octetOf count, 0, 0, 0, 0, 0], nodes := t.nodes, inh := t.inh
                sticky := t.sticky, portA := t.portA, portB := t.portB, requests := t.requests
                completions := t.completions, choices := t.choices } ∧
          t.node e = NodeEntry.vacant) ∧
        (s.noneGated → s.inh.isActive .dataStale = s.dataStaleLevel →
          exec .nodeRemove s = .next
            { freed.setCondition .dataStale freed.dataStaleLevel with
              rslt := .ok
              res := #v[octetOf count, 0, 0, 0, 0, 0]
              nodes := s.nodes.setIfInBounds e NodeEntry.vacant })))

/-- NODE_ACK (R127): the named notice flag is cleared, and the lowest-numbered entry whose flag is set after the
command is reported with its state. -/
def Obligations.NodeAckReportsNext : Prop :=
  ∀ s : State,
    let a := (s.arg 0).toNat
    let cleared : State :=
      { s with
        cmd := 0x3C
        nodes := if a ≤ 31 then s.nodes.setIfInBounds a { s.node a with notice := false } else s.nodes }
    exec .nodeAck s = .next
      (if 32 ≤ a ∧ a ≤ 254 then { s with cmd := 0x3C, rslt := .badArgument, res := #v[0, 0, 0, 0, 0, 0] }
      else
        { cleared with
          rslt := .ok
          res :=
            match (List.range 32).find? fun i => (cleared.node i).notice with
            | none => #v[0xFF, 0, 0, 0, 0, 0]
            | some i =>
              #v[octetOf i,
                 match (cleared.node i).state with
                 | .vacant => 0
                 | .disabled => 1
                 | .probing => 2
                 | .present => 3
                 | .suspect => 4
                 | .absent => 5,
                 0, 0, 0, 0] })

/-! ### The request pool -/

/-- SUBMIT (R139, R140): the four checks in their order; an accepted request joins the submission order WAITING, and
the arbiter of its port evaluates (R96). -/
def Obligations.SubmitJoinsPool : Prop :=
  ∀ s : State,
    let o := fun k : Nat => (s.stg k).toNat
    let port : Port := if o 1 = 0 then .A else .B
    let used := s.requests.length + s.completions.length
    let refused := fun c : ResultCode => { s with cmd := 0x40, rslt := c, res := #v[0, 0, 0, 0, 0, 0] : State }
    exec .submit s = .next
      (if o 1 > 1 ∨ o 2 < 1 ∨ o 2 > 63 ∨ o 3 < 1 ∨ o 3 > 127 ∨ o 4 > 24 ∨ o 5 > 7 ∨ o 7 > 1 then refused .badArgument
      else if o 2 ≠ 63 ∧
          ¬∃ e ∈ List.range 32, (s.node e).state ≠ .vacant ∧ (s.node e).port = port ∧ (s.node e).address = o 2 then
        refused .badArgument
      else if (s.port port).link = .disabled then refused .portOff
      else if (∃ q ∈ s.requests, q.tag = s.stg 0) ∨ ∃ c ∈ s.completions, c.tag = s.stg 0 then refused .tagInUse
      else if used ≥ 16 then refused .full
      else
        let request : Request :=
          { tag := s.stg 0, port, address := o 2, itemType := (s.stg 3).truncate 7
            payload := (List.range (o 4)).map fun k => s.stg (8 + k)
            retryCount := o 5, deadline := o 6, gated := decide (o 7 = 1), state := .waiting, abortPending := false
            attempts := 0 }
        { ({ s with cmd := 0x40, requests := s.requests ++ [request] } : State).evaluate port with
          rslt := .ok
          res := #v[octetOf (used + 1), 0, 0, 0, 0, 0] })

/-- ABORT (R145, R148): a WAITING request completes at once with ABORTED, and the arbiter evaluates if it was the
oldest of its port (R96); an IN_FLIGHT one is marked abort pending; any other tag is refused with NO_TAG. -/
def Obligations.AbortStopsRequest : Prop :=
  ∀ s : State,
    exec .abort s = .next
      (match s.requests.find? fun q => q.tag = s.arg 0 with
      | none => { s with cmd := 0x41, rslt := .noTag, res := #v[0, 0, 0, 0, 0, 0] }
      | some q =>
        match q.state with
        | .waiting =>
          let done : State :=
            { s with
              cmd := 0x41
              requests := s.requests.filter fun x => x.tag ≠ q.tag
              completions := s.completions ++
                [{ tag := q.tag, status := .aborted, attempts := q.attempts, epoch := s.epoch.count.truncate 16 }] }
          let oldest := s.requests.find? fun x => x.port = q.port && x.state = .waiting
          { (if (oldest.any fun x => x.tag = q.tag) = true then done.evaluate q.port else done) with
            rslt := .ok
            res := #v[0, 0, 0, 0, 0, 0] }
        | .inFlight =>
          { s with
            cmd := 0x41
            rslt := .ok
            res := #v[1, 0, 0, 0, 0, 0]
            requests := s.requests.map fun x => if x.tag = q.tag then { x with abortPending := true } else x })

/-- POP_COMPLETION (R150), in the coding of R198. -/
def Obligations.PopCompletionTakesHead : Prop :=
  ∀ s : State,
    exec .popCompletion s = .next
      (match s.completions with
      | [] => { s with cmd := 0x42, rslt := .empty, res := #v[0, 0, 0, 0, 0, 0] }
      | c :: rest =>
        let code : Octet :=
          match c.status with
          | .ok => 0
          | .nak _ => 1
          | .noReply => 2
          | .aborted => 3
          | .expired => 4
          | .nodeAbsent => 5
          | .flushed => 6
        let reason : Octet :=
          match c.status with
          | .nak .busy => 1
          | .nak .unknownType => 2
          | .nak .refused => 3
          | _ => 0
        { s with
          cmd := 0x42
          rslt := .ok
          res := #v[c.tag, code, octetOf c.attempts, reason, c.epoch.truncate 8, (c.epoch >>> 8).truncate 8]
          completions := rest })

/-! ### The inhibit unit's commands -/

/-- INH_FORCE (R167), with the unit acting on the change as R171, R172, R176 and R177 lay down. -/
def Obligations.InhForceSetsForce : Prop :=
  ∀ s : State, InhibitOk s.inh →
    exec .inhForce s = .next
      (if (s.arg 0).toNat > 1 then { s with cmd := 0x48, rslt := .badArgument, res := #v[0, 0, 0, 0, 0, 0] }
      else
        let active := if s.arg 0 = 1 then s.inh.active ||| 0x02 else s.inh.active &&& 0xFD
        let t := afterInhibit s (({ s with cmd := 0x48 } : State).inhSettled active s.inh.mask)
        { t with rslt := .ok, res := #v[t.inh.state.code, 0, 0, 0, 0, 0] })

/-- INH_CLEAR (R168): the named latched conditions become inactive together; a set with a live or host-set
condition is refused and clears none. -/
def Obligations.InhClearClearsLatched : Prop :=
  ∀ s : State, InhibitOk s.inh →
    exec .inhClear s = .next
      (if s.arg 0 &&& 0x3E ≠ 0 then { s with cmd := 0x49, rslt := .badArgument, res := #v[0, 0, 0, 0, 0, 0] }
      else
        let t := afterInhibit s (({ s with cmd := 0x49 } : State).inhSettled (s.inh.active &&& ~~~s.arg 0) s.inh.mask)
        { t with rslt := .ok, res := #v[t.inh.state.code, t.inh.active, 0, 0, 0, 0] })

/-- INH_ACK (R174). -/
def Obligations.InhAckReleases : Prop :=
  ∀ s : State,
    exec .inhAck s = .next
      (match s.inh.state with
      | .awaitingAck =>
        let t := afterInhibit s
          { s with cmd := 0x4A, inh := { s.inh with state := .clear }, sticky := s.sticky ||| eventInhibit }
        { t with rslt := .ok, res := #v[t.inh.state.code, 0, 0, 0, 0, 0] }
      | .clear => { s with cmd := 0x4A, rslt := .wrongState, res := #v[0, 0, 0, 0, 0, 0] }
      | .asserted => { s with cmd := 0x4A, rslt := .wrongState, res := #v[1, 0, 0, 0, 0, 0] }
      | .releasing _ => { s with cmd := 0x4A, rslt := .wrongState, res := #v[2, 0, 0, 0, 0, 0] })

/-- A write to INHM (R169), and every report of a condition to the unit (R165), with what a fall of INH starts: the unit
acts by R171 or R172 on the conditions and the mask that result. The levels that are reported: DATA_STALE while an in-use
record with the inhibit attribute is STALE or ORPHAN (R24), NODE_LOST while an entry with it is ABSENT (R133). -/
def Obligations.MaskAndReportsSettle : Prop :=
  ∀ s : State,
    (s.dataStaleLevel = true ↔ ∃ r rec, s.record r = some rec ∧ rec.inhibit = true ∧ (rec.state = .stale ∨ rec.state = .orphan)) ∧
    (s.nodeLostLevel = true ↔ ∃ e < 32, (s.node e).state = .absent ∧ (s.node e).inhibit = true) ∧
    (InhibitOk s.inh →
      (∀ v : Octet, exec (.inhmWrite v) s = .next (afterInhibit s (s.inhSettled s.inh.active v))) ∧
      ∀ (c : Condition) (on : Bool),
        let settled := s.inhSettled (if on then s.inh.active ||| c.bit else s.inh.active &&& ~~~c.bit) s.inh.mask
        s.setCondition c on = settled ∧ s.report c on = afterInhibit s settled)

/-! ### Port commands and registers -/

/-- PORT_ENABLE (R84): the link side, and then the enabled entries of the port fall due, in ascending index (R125),
each as `CountdownsReachDue` says. -/
def Obligations.PortEnableStartsPort : Prop :=
  ∀ s : State,
    let p : Port := if s.arg 0 = 0 then .A else .B
    let answer := fun c : ResultCode => { s with cmd := 0x50, rslt := c, res := #v[0, 0, 0, 0, 0, 0] : State }
    let enabled := fun e : Nat => decide ((s.node e).state ≠ .vacant ∧ (s.node e).state ≠ .disabled ∧ (s.node e).port = p)
    let started : State :=
      ({ s with cmd := 0x50, sticky := s.sticky ||| eventPort } : State).setPort p
        { s.port p with
          lineRate := (s.port p).storedRate, silence := 0, windowEpochs := 0, windowCrc := 0, fired := false
          deframer := .hunting, receiver := { idle := 0, bits := none }, link := .searching
          lastGrant := .request }
    exec .portEnable s = .next
      (if (s.arg 0).toNat > 1 then answer .badArgument
      else if (s.port p).link ≠ .disabled then answer .wrongState
      else
        { ((List.range 32).filter enabled).foldl State.fallDue started with
          rslt := .ok
          res := #v[0, 0, 0, 0, 0, 0] })

/-- What PORT_DISABLE and PORT_RESET do to a port, its transaction, its requests, its entries and their records, with
`link` the state it takes (R85, R86, R111, R125, R154): its conditions at the inhibit unit (R91, R24, R133) and the
events PORT and NODE (R91, R126), where no fall of INH sets a gated request of the other port free. Order of stopping
and reports: entry 7; the heard mark and the receiver stay: entries 10 and 19; the unit of time: entry 14. Ports and
pool are as every run has them (`PortsOk`, `PoolOk`). -/
def Obligations.PortStopAbandonsAll : Prop :=
  ∀ (s : State) (p : Port) (link : LinkState), PortsOk s → PoolOk s →
    let enabled := fun e : Nat => decide ((s.node e).state ≠ .vacant ∧ (s.node e).state ≠ .disabled ∧ (s.node e).port = p)
    let entries := (List.range 32).filter enabled
    let polled : Option Nat :=
      match (s.port p).transaction with
      | some t => if t.work = .poll ∧ t.entryLost = false then t.entry else none
      | none => none
    let lost := fun rec : Record => entries.contains rec.entry && decide (rec.state ≠ .orphan)
    let told := fun r : Nat => (s.record r).any fun rec => lost rec && decide (rec.policy ≠ .silent)
    let queued := fun r : Nat => (s.record r).any fun rec => rec.queued
    let flushed := (s.requests.filter fun q => q.port = p && q.state = .inFlight) ++
      s.requests.filter fun q => q.port = p && q.state = .waiting
    let t := s.stopPort p link
    t = { t with
          cmd := s.cmd, args := s.args, staging := s.staging, rslt := s.rslt, res := s.res, view := s.view
          holds := s.holds, hlim := s.hlim, evictions := s.evictions, drops := s.drops
          shadowOverwrites := s.shadowOverwrites, filters := s.filters, defa := s.defa, tmo := s.tmo, qgap := s.qgap
          silim := s.silim, crct := s.crct, crcw := s.crcw, epoch := s.epoch, enables := s.enables, marks := s.marks
          pending := s.pending, host := s.host, held := s.held
          records := s.records.map fun x => x.map fun rec =>
            if lost rec then { rec with state := .orphan, queued := rec.queued || decide (rec.policy ≠ .silent) }
            else rec
          queue :=
            (s.queue.map fun q =>
              if told q.record && queued q.record then { q with causes := q.causes ||| 0x10 } else q) ++
            (entries.flatMap fun e => (List.range 48).filter fun r =>
              told r && !queued r && (s.record r).any fun rec => decide (rec.entry = e)).map (fun r => ⟨r, 0x10⟩) } ∧
    t.port p =
      { s.port p with
        silence := 0, windowEpochs := 0, windowCrc := 0, fired := false, deframer := .hunting, link := link
        sequencer := .quiet none (s.qgap.toNat * 40), transaction := none, dueList := [] } ∧
    (s.noneGated →
      (∀ q, q ≠ p → t.port q = s.port q) ∧ t.choices = s.choices ∧
      (∀ e, t.node e =
        let n := if polled = some e then { s.node e with polled := false } else s.node e
        if enabled e then
          { n with
            state := .probing, missCount := 0, lastSequence := none, countdown := 0
            notice := n.notice || decide (n.state ≠ .probing) }
        else n) ∧
      t.requests = s.requests.filter (fun q => decide (q.tag ∉ flushed.map fun f => f.tag)) ∧
      t.completions = s.completions ++ flushed.map (fun q =>
        { tag := q.tag, status := .flushed, attempts := q.attempts, epoch := s.epoch.count.truncate 16 }) ∧
      (∀ c, t.inh.isActive c =
        if c = portDown p ∧ (s.port p).link = .down then false
        else if c = .nodeLost then t.nodeLostLevel
        else if c = .dataStale ∧ entries ≠ [] then t.dataStaleLevel
        else s.inh.isActive c) ∧
      t.inh.mask = s.inh.mask ∧ t.inh.mode = s.inh.mode ∧ t.inh.delay = s.inh.delay ∧
      t.sticky &&& ~~~eventInhibit =
        (s.sticky ||| (if (s.port p).link = link then 0 else eventPort) |||
          (if ∃ e ∈ entries, (s.node e).state ≠ .probing then eventNode else 0)) &&& ~~~eventInhibit)

/-- PORT_DISABLE and PORT_RESET (R85, R86) answer and stop the port as `PortStopAbandonsAll` says; a reset port is
SEARCHING and its entries fall due at once, in ascending index (R125). CLEAR_COUNTERS (R80) sets the eight counters of
the named ports to 0. Ports are as every run has them (`PortsOk`). -/
def Obligations.PortDisableResetClear : Prop :=
  ∀ s : State, PortsOk s →
    let zero := fun ps : PortState =>
      { ps with
        counters :=
          { crcErrors := 0, formatErrors := 0, foreign := 0, stray := 0, late := 0, unknownSource := 0, noReply := 0
            discarded := 0 } : PortState }
    let p : Port := if s.arg 0 = 0 then .A else .B
    let enabled := fun e : Nat => decide ((s.node e).state ≠ .vacant ∧ (s.node e).state ≠ .disabled ∧ (s.node e).port = p)
    let answer := fun (code : Octet) (c : ResultCode) (t : State) =>
      { t with cmd := code, rslt := c, res := #v[0, 0, 0, 0, 0, 0] : State }
    exec .portDisable s = .next
      (if (s.arg 0).toNat > 1 then answer 0x51 .badArgument s
      else if (s.port p).link = .disabled then answer 0x51 .wrongState s
      else answer 0x51 .ok (s.stopPort p .disabled)) ∧
    exec .portReset s = .next
      (if (s.arg 0).toNat > 1 then answer 0x52 .badArgument s
      else if (s.port p).link = .disabled then answer 0x52 .wrongState s
      else
        let stopped := s.stopPort p .searching
        answer 0x52 .ok
          (((List.range 32).filter enabled).foldl State.fallDue
            (stopped.setPort p { stopped.port p with lastGrant := .request }))) ∧
    exec .clearCounters s = .next
      (if (s.arg 0).toNat > 2 then answer 0x53 .badArgument s
      else
        answer 0x53 .ok
          { s with
            portA := if s.arg 0 = 1 then s.portA else zero s.portA
            portB := if s.arg 0 = 0 then s.portB else zero s.portB })

/-- Writes to EVF and EVE (R182, R183), bit by bit: a sticky flag written 1 is cleared and every other flag stands;
every enable of the octet takes the value written; IRQ is asserted exactly while a set flag has its enable set (R184). -/
def Obligations.EventRegistersByBit : Prop :=
  ∀ (s : State) (half : Half) (v : Octet),
    let written := fun i : Nat => decide (half = if i < 8 then Half.low else .high) && v.getLsbD (i % 8)
    (∃ k, exec (.evfWrite half v) s = .next { s with sticky := k } ∧
      ∀ i < 9, ({ s with sticky := k } : State).flags.getLsbD i =
        (s.flags.getLsbD i && !(decide (2 ≤ i) && written i))) ∧
    (∃ k, exec (.eveWrite half v) s = .next { s with enables := k } ∧
      ∀ i < 9, k.getLsbD i =
        if half = (if i < 8 then Half.low else .high) then v.getLsbD (i % 8) else s.enables.getLsbD i) ∧
    (s.irq = true ↔ ∃ i < 9, s.flags.getLsbD i = true ∧ s.enables.getLsbD i = true) ∧
    (s.flags.getLsbD 0 = true ↔ s.queue ≠ []) ∧ (s.flags.getLsbD 1 = true ↔ s.completions ≠ [])

/-- Writes to EPP (R157, R159), and the read of EPC (R160): four octets read from 1Ah on are one value of the count. -/
def Obligations.EpochTimerRegisters : Prop :=
  ∀ (s : State) (v : Octet),
    exec (.eppLowWrite v) s = .next { s with epoch := { s.epoch with heldLow := v } } ∧
    exec (.periodWrite v) s = .next
      (let written : Word16 := BitVec.ofNat 16 (v.toNat * 256 + s.epoch.heldLow.toNat)
      match s.epoch.period with
      | some _ => { s with epoch := { s.epoch with pendingPeriod := some written } }
      | none =>
        if written = 0 then s else { s with epoch := { s.epoch with period := some written, elapsed := 0 } }) ∧
    exec .epcSnapshot s = .next { s with epoch := { s.epoch with snapshot := s.epoch.count } } ∧
    spiRead 0x1A 4 s =
      ([s.epoch.count.extractLsb' 0 8, s.epoch.count.extractLsb' 8 8, s.epoch.count.extractLsb' 16 8,
        s.epoch.count.extractLsb' 24 8],
       { s with epoch := { s.epoch with snapshot := s.epoch.count } })

/-- A write to a plain register (R189): the address then reads as written where its register takes the value (R53,
R59, R88, R172, R190, R196), and else as before; no other address of the window reads otherwise. -/
def Obligations.RegisterWritesReadBack : Prop :=
  ∀ (s : State) (a : Addr) (v : Octet), a ∉ ownRowAddresses →
    let takes :=
      (0x01 ≤ a ∧ a ≤ 0x04) ∨ (a = 0x13 ∧ v ≤ 1) ∨ a = 0x14 ∨ (0x20 ≤ a ∧ a ≤ 0x3F) ∨
      ((a = 0x70 ∨ a = 0x71) ∧ v ≤ 3) ∨ (a = 0x72 ∧ 2 ≤ v) ∨ (a = 0x73 ∧ 1 ≤ v) ∨
      (a = 0x74 ∧ 2 ≤ v ∧ v ≤ 15) ∨ ((a = 0x75 ∨ a = 0x76) ∧ 1 ≤ v) ∨ a = 0x77 ∨ (a = 0x78 ∧ v ≤ 1)
    ∃ t, exec (.registerWrite a v) s = .next t ∧
      (∀ b, t.readRegister b = if b = a ∧ takes then v else s.readRegister b) ∧
      t = { s with
            args := t.args, staging := t.staging, tmo := t.tmo, qgap := t.qgap, silim := t.silim, crct := t.crct
            crcw := t.crcw, hlim := t.hlim, defa := t.defa
            inh := { s.inh with mode := t.inh.mode, delay := t.inh.delay }
            portA := { s.portA with storedRate := t.portA.storedRate }
            portB := { s.portB with storedRate := t.portB.storedRate } } ∧
      (¬takes → t = s)

/-! ### Frames on the line -/

/-- START_DELIMITER (R76), octets outside a frame, and the frames that fail a check of R77 or are for another station:
FORMAT and CRC are counted (R79), a CRC error may fire the burst detector (R89) and ends an attempt that awaits its
reply (R102), in that order (the model's choice, entry 20); FOREIGN is counted and heard (R78). A valid frame is heard and
then handed on, to the sequencer as it was before (the model's reading, entry 8). What gives these rows on the line, with
nothing waiting (R70, R76): ten bit times of an octet, an octet error, and idle; ignored while the port does not listen.
Rows and bits: entries 18 and 19. -/
def Obligations.UnusableFramesCounted : Prop :=
  ∀ (s : State) (p : Port) (octets : List Octet),
    let ps := s.port p
    let listening := ps.link ≠ .disabled ∧ ps.isSending = false
    let windowCrc := min 255 (ps.windowCrc + 1)
    let received := fun (r : LineReceiver) (d : Deframer) => s.setPort p { ps with receiver := r, deframer := d }
    let fresh : LineReceiver := { idle := 0, bits := none }
    let data := fun o : Octet => (List.range 8).map fun k => o.getLsbD k
    exec (.startDelimiter p) s = .next
      (if listening ∧ ps.deframer = .hunting then received fresh (.receiving []) else s) ∧
    (s.pending = [] → ¬listening ∨ s.held = true → ∀ high, s.lineBit p high = s) ∧
    (s.pending = [] → listening → s.held = false → ps.receiver.bits = none →
      (∀ o : Octet, (.next (s.lineBits p (false :: data o ++ [true])) : Answer) =
        match ps.deframer with
        | .hunting =>
          if 20 ≤ ps.receiver.idle ∧ o = 0xC5 then exec (.startDelimiter p) (received fresh .hunting)
          else .next (received fresh .hunting)
        | .receiving os =>
          let all := os ++ [o]
          if all[4]?.any fun len : Octet => decide (96 < len.toNat ∨ len.toNat + 7 ≤ all.length) then
            exec (.frameReceived p all) (received fresh (.receiving all))
          else .next (received fresh (.receiving all))) ∧
      (∀ o : Octet, (.next (s.lineBits p (false :: data o ++ [false])) : Answer) =
        match ps.deframer with
        | .hunting => .next (received fresh .hunting)
        | .receiving os => exec (.frameReceived p os) (received fresh (.receiving os))) ∧
      (.next (s.lineBit p true) : Answer) =
        let longer : LineReceiver := { idle := min 20 (ps.receiver.idle + 1), bits := none }
        match ps.deframer with
        | .hunting => .next (received longer .hunting)
        | .receiving os =>
          if 19 ≤ ps.receiver.idle then exec (.frameReceived p os) (received longer (.receiving os))
          else .next (received longer (.receiving os))) ∧
    exec (.frameReceived p octets) s = .next
      (if ¬listening ∨ ps.deframer = .hunting then s
      else
        match classify octets with
        | .format =>
          ({ s with sticky := s.sticky ||| eventLinkError } : State).setPort p
            { ps with
              deframer := .hunting
              counters := { ps.counters with formatErrors := min 65535 (ps.counters.formatErrors + 1) } }
        | .crc =>
          let counted : PortState :=
            { ps with
              deframer := .hunting
              windowCrc
              counters := { ps.counters with crcErrors := min 65535 (ps.counters.crcErrors + 1) } }
          let told :=
            if s.crct.toNat ≤ windowCrc ∧ ps.fired = false then
              let set := (s.setPort p { counted with fired := true }).setCondition .linkErrors true
              { set with sticky := set.sticky ||| eventLinkError }
            else s.setPort p counted
          match ps.sequencer, ps.transaction with
          | .awaiting _, some t => told.failAttempt p t
          | _, _ => told
        | .foreign =>
          (s.setPort p
            { ps with
              deframer := .hunting
              counters := { ps.counters with foreign := min 65535 (ps.counters.foreign + 1) } }).hear p
        | .valid f =>
          ((s.setPort p { ps with deframer := .hunting }).hear p).frameHandedOn p ps.sequencer f)

/-- Hearing the line (R78, R83, R91): the silence counter goes to 0, the current attempt is marked heard, and a
SEARCHING or DOWN port goes UP, with the PORT event; leaving DOWN makes the port's DOWN condition inactive. -/
def Obligations.HearingTakesPortUp : Prop :=
  ∀ (s : State) (p : Port),
    let ps := s.port p
    let heard := { ps with silence := 0, heard := ps.heard || ps.isSending || ps.isAwaiting : PortState }
    let up := ({ s with sticky := s.sticky ||| eventPort } : State).setPort p { heard with link := .up }
    s.hear p =
      match ps.link with
      | .disabled => s.setPort p heard
      | .up => s.setPort p heard
      | .searching => up
      | .down => up.report (portDown p) false

/-- A DATA reply to the POLL in flight (R102, R108, R121): being polled and the miss count are cleared, the entry is
PRESENT with a notice and the NODE event where that is a change (R126), NODE_LOST is reported for a counted entry that
was ABSENT (R133), the sequence check (R122) takes the frame or finds a duplicate, and a frame that is taken has its
items handled in frame order; then QUIET. -/
def Obligations.PollReplyTaken : Prop :=
  ∀ (s : State) (p : Port) (t : Transaction) (e left : Nat) (f : RxFrame) (items : List Item),
    (s.port p).heard = true → (s.port p).transaction = some t → (s.port p).sequencer = .awaiting left →
    t.work = .poll → t.entry = some e → e < 32 → t.awaited = some f.source → f.body = .data items →
    let n := s.node e
    let present : NodeEntry :=
      { n with polled := false, missCount := 0, state := .present, notice := n.notice || decide (n.state ≠ .present) }
    let ended := s.setPort p { s.port p with transaction := none }
    s.frameHandedOn p (.awaiting left) f =
      (if t.entryLost then
        (ended.setPort p
          { ended.port p with
            counters :=
              { (s.port p).counters with
                unknownSource := min 65535 ((s.port p).counters.unknownSource + items.length) } }).enterQuiet p t.awaited
      else
        let known : State :=
          { ended with
            nodes := s.nodes.setIfInBounds e present
            sticky := if n.state = .present then s.sticky else s.sticky ||| eventNode }
        let known := if n.state = .absent ∧ n.inhibit = true then known.report .nodeLost known.nodeLostLevel else known
        let m := known.node e
        (match m.lastSequence with
        | none => items.foldl (State.takeItem e f.sequence) (known.setNode e { m with lastSequence := some f.sequence })
        | some last =>
          if f.sequence = last then known.setNode e { m with duplicates := min 255 (m.duplicates + 1) }
          else if f.sequence = last + 1 then
            items.foldl (State.takeItem e f.sequence) (known.setNode e { m with lastSequence := some f.sequence })
          else
            items.foldl (State.takeItem e f.sequence)
              (known.setNode e { m with lastSequence := some f.sequence, gaps := min 255 (m.gaps + 1) })).enterQuiet
          p t.awaited)

/-- A reply to the WRITE in flight (R102, R110, R148), and answers that R75 forbids a node: an ACK or NAK that names the item type written completes the
request; anything else from the awaited node is a mismatch, counted in format errors with LINK_ERROR, and fails the
attempt; so is an ACK or NAK while a POLL awaits its DATA. A frame from another node is stray, and the wait goes on. -/
def Obligations.WriteReplyTaken : Prop :=
  ∀ (s : State) (p : Port) (t : Transaction) (left : Nat) (f : RxFrame),
    (s.port p).heard = true → (s.port p).transaction = some t → (s.port p).sequencer = .awaiting left →
    let ps := s.port p
    let completed := fun (tag : Octet) (status : Status) =>
      let ended := s.setPort p { ps with transaction := none }
      (match s.requests.find? fun q : Request => q.tag = tag with
      | some q =>
        { ended with
          requests := s.requests.filter fun x => x.tag ≠ q.tag
          completions := s.completions ++
            [({ tag := q.tag, status, attempts := q.attempts, epoch := s.epoch.count.truncate 16 } : Completion)] : State }
      | none => ended).enterQuiet p t.awaited
    let mismatch :=
      (({ s with sticky := s.sticky ||| eventLinkError } : State).setPort p
        { ps with counters := { ps.counters with formatErrors := min 65535 (ps.counters.formatErrors + 1) } }).failAttempt
        p t
    (t.awaited ≠ some f.source →
      s.frameHandedOn p (.awaiting left) f =
        s.setPort p { ps with counters := { ps.counters with stray := min 65535 (ps.counters.stray + 1) } }) ∧
    (t.awaited = some f.source → t.work = .poll → (∀ items, f.body ≠ .data items) →
      s.frameHandedOn p (.awaiting left) f = mismatch) ∧
    (∀ tag itemType, t.awaited = some f.source → t.work = .request tag itemType →
      s.frameHandedOn p (.awaiting left) f =
        match f.body with
        | .ack x => if x = itemType then completed tag .ok else mismatch
        | .nak x reason => if x = itemType then completed tag (.nak reason) else mismatch
        | .data _ => mismatch)

/-- A valid frame outside an attempt's wait (R104), such as a late answer (R75): in QUIET, one from the awaited address of the attempt just ended
is LATE, counted by the port and by the node entry of that address (R128); every other one, and any in IDLE, is stray.
In IDLE: entry 8. -/
def Obligations.LateAndStrayFrames : Prop :=
  ∀ (s : State) (p : Port) (f : RxFrame),
    let ps := s.port p
    let stray := s.setPort p { ps with counters := { ps.counters with stray := min 65535 (ps.counters.stray + 1) } }
    s.frameHandedOn p .idle f = stray ∧
    ∀ (awaited : Option Nat) (left : Nat),
      s.frameHandedOn p (.quiet awaited left) f =
        if awaited = some f.source then
          let late := s.setPort p { ps with counters := { ps.counters with late := min 65535 (ps.counters.late + 1) } }
          match (List.range 32).find? fun e =>
              decide ((s.node e).state ≠ .vacant ∧ (s.node e).port = p ∧ (s.node e).address = f.source) with
          | none => late
          | some e => late.setNode e { s.node e with lates := min 255 ((s.node e).lates + 1) }
        else stray

/-! ### The end of an attempt -/

/-- A failed attempt (R82, R106, R108): silence and link state first, then a retry is left pending or the transaction
is reported, then QUIET with the awaited address. A disabled entry: entry 9. -/
def Obligations.AttemptFails : Prop :=
  ∀ (s : State) (p : Port) (t : Transaction),
    let ps := s.port p
    let silence := min 15 (ps.silence + 1)
    let counted :=
      if ps.heard then s
      else if s.silim.toNat ≤ silence ∧ (ps.link = .searching ∨ ps.link = .up) then
        (({ s with sticky := s.sticky ||| eventPort } : State).setPort p
          { ps with silence, link := .down }).setCondition (portDown p) true
      else s.setPort p { ps with silence }
    let aborted :=
      match t.work with
      | .poll => false
      | .request tag _ => (s.requests.find? fun q : Request => q.tag = tag).any fun q => q.abortPending
    let retry := t.made < t.allowed ∧ aborted = false ∧ t.entryLost = false ∧ ¬(t.work = .poll ∧ t.firstInDown = true)
    s.failAttempt p t =
      (if retry then counted.setPort p { counted.port p with transaction := some { t with retryPending := true } }
      else counted.reportFailed p t).enterQuiet p t.awaited

/-- A transaction reported as failed (R109, R110): a poll whose entry was disabled changes nothing there (R124), one
begun in DOWN clears being polled alone (R124), any other is a miss (R123), which at the absent threshold orphans the
entry's records (R16) and, for a counted entry, reports NODE_LOST (R133); a request completes NO_REPLY, or ABORTED with
abort pending (R147). -/
def Obligations.FailedOutcomeReported : Prop :=
  ∀ (s : State) (p : Port) (t : Transaction),
    let ended := s.setPort p { s.port p with transaction := none }
    (∀ tag itemType, t.work = .request tag itemType →
      s.reportFailed p t =
        match s.requests.find? fun q : Request => q.tag = tag with
        | none => ended
        | some q =>
          { ended with
            requests := s.requests.filter fun x => x.tag ≠ q.tag
            completions := s.completions ++
              [{ tag := q.tag, status := if q.abortPending then .aborted else .noReply, attempts := q.attempts
                 epoch := s.epoch.count.truncate 16 }] }) ∧
    (t.work = .poll → t.entry = none ∨ t.entryLost = true → s.reportFailed p t = ended) ∧
    ∀ e, t.work = .poll → t.entry = some e → t.entryLost = false →
      let n := s.node e
      let misses := min n.absentThreshold (n.missCount + 1)
      let next := if misses = n.absentThreshold then .absent else if n.state = .present then .suspect else n.state
      let lost := fun rec : Record => decide (rec.entry = e ∧ rec.state ≠ .orphan)
      let told := fun r : Nat => (s.record r).any fun rec => lost rec && decide (rec.policy ≠ .silent)
      let queued := fun r : Nat => (s.record r).any fun rec => rec.queued
      let missed : State :=
        { ended with
          nodes := s.nodes.setIfInBounds e
            { n with polled := false, missCount := misses, state := next, notice := n.notice || decide (next ≠ n.state) }
          sticky := if next = n.state then s.sticky else s.sticky ||| eventNode }
      (t.firstInDown = true →
        s.reportFailed p t = { ended with nodes := s.nodes.setIfInBounds e { n with polled := false } }) ∧
      (t.firstInDown = false → e < 32 →
        s.reportFailed p t =
          if next = n.state ∨ next ≠ .absent then missed
          else
            let gone : State :=
              { missed with
                records := s.records.map fun x => x.map fun rec =>
                  if lost rec then
                    { rec with state := .orphan, queued := rec.queued || decide (rec.policy ≠ .silent) }
                  else rec
                queue :=
                  (s.queue.map fun q =>
                    if told q.record && queued q.record then { q with causes := q.causes ||| 0x10 } else q) ++
                  ((List.range 48).filter fun r => told r && !queued r).map (fun r => ⟨r, 0x10⟩) }
            let gone := gone.setCondition .dataStale gone.dataStaleLevel
            if n.inhibit then gone.setCondition .nodeLost gone.nodeLostLevel else gone)

/-- The timers of a port: transmit completion (R100, R101), the response timeout (R103) and the end of the quiet
interval (R105), each without effect in any other state of the sequencer (entry 3). Times: entry 14. -/
def Obligations.PortTimersExpire : Prop :=
  ∀ (s : State) (p : Port),
    let ps := s.port p
    exec (.transmitCompletion p) s = .next
      (match ps.sequencer, ps.transaction with
      | .sending _ tmo _, some t =>
        match t.awaited, t.work with
        | none, .request tag _ =>
          let ended := s.setPort p { ps with transaction := none }
          (match s.requests.find? fun q : Request => q.tag = tag with
          | some q =>
            { ended with
              requests := s.requests.filter fun x => x.tag ≠ q.tag
              completions := s.completions ++
                [({ tag := q.tag, status := .ok, attempts := q.attempts, epoch := s.epoch.count.truncate 16 } : Completion)] :
              State }
          | none => ended).enterQuiet p none
        | _, _ => s.setPort p { ps with sequencer := .awaiting (tmo.toNat * 40) }
      | _, _ => s) ∧
    exec (.responseTimeoutExpiry p) s = .next
      (match ps.sequencer, ps.transaction with
      | .awaiting _, some t =>
        (s.setPort p
          { ps with counters := { ps.counters with noReply := min 65535 (ps.counters.noReply + 1) } }).failAttempt p t
      | _, _ => s) ∧
    exec (.quietIntervalExpiry p) s = .next
      (match ps.sequencer with
      | .quiet _ _ => (s.setPort p { ps with sequencer := .idle }).evaluate p
      | _ => s) ∧
    ∀ awaited, s.enterQuiet p awaited = s.setPort p { ps with sequencer := .quiet awaited (s.qgap.toNat * 40) }

/-! ### Grants -/

/-- GRANT and every other evaluation of an arbiter (R96, R97, R98, R107), where no two requests have one tag: only an
IDLE enabled port grants; a pending retry comes first, and is dropped and reported where R107 says so; else the oldest
WAITING request is held back while it is gated and INH is asserted, completes with NODE_ABSENT where its node cannot
be reached, and otherwise takes turns with the head of the due list by the last grant kind. GRANT as an evaluation:
entry 4. -/
def Obligations.GrantChoosesWinner : Prop :=
  ∀ (s : State) (p : Port), (s.requests.map fun q => q.tag).Nodup →
    let ps := s.port p
    let oldest := s.requests.find? fun q : Request => q.port = p && q.state = .waiting
    let reachable := fun q : Request =>
      match (List.range 32).find? fun e =>
          decide ((s.node e).state ≠ .vacant ∧ (s.node e).port = p ∧ (s.node e).address = q.address) with
      | none => false
      | some e => decide ((s.node e).state ≠ .disabled ∧ (s.node e).state ≠ .absent)
    exec (.grant p) s = .next (s.evaluate p) ∧
    s.evaluate p =
      if ps.link = .disabled ∨ ps.sequencer ≠ .idle then s
      else
        match ps.transaction with
        | some t =>
          let aborted :=
            match t.work with
            | .poll => false
            | .request tag _ => (s.requests.find? fun q : Request => q.tag = tag).any fun q => q.abortPending
          if t.retryPending = false then s
          else if aborted = true ∨ t.entryLost = true ∨ (t.work = .poll ∧ ps.link = .down) then
            (s.reportFailed p t).evaluate p
          else s.startAttempt p t
        | none =>
          match oldest, ps.dueList with
          | none, [] => s
          | none, e :: _ => s.grantPoll p e
          | some q, due =>
            if q.gated && s.inhAsserted then
              match due with
              | [] => s
              | e :: _ => s.grantPoll p e
            else if q.address ≠ 63 ∧ reachable q = false then (s.complete q .nodeAbsent).evaluate p
            else
              match due with
              | [] => s.grantRequest p q
              | e :: _ => if ps.lastGrant = .request then s.grantPoll p e else s.grantRequest p q

/-- What a grant does (R95, R99, R74, R199): the first attempt of a poll of entry `e`, the first attempt of a WAITING
request `q` of the pool, and the retries of both, with the repeat flag in a POLL alone. The frame carries the transmit
count and is followed by its check (R73); a frame being received is cut off and counted stray (R76). In SENDING the
transmit pin is idle for 20 bit times and then carries the octets, each as a start bit, its data bits least significant
first and a stop bit (R70, R100); else it is idle. Times: entry 14. Levels, and the receiver: entry 19. -/
def Obligations.GrantSendsFrame : Prop :=
  ∀ (s : State) (p : Port),
    let ps := s.port p
    let bitTime :=
      match ps.lineRate with
      | .k250 => 16
      | .m1 => 4
      | .m2 => 2
      | .m4 => 1
    let ticks := fun octets : Nat => (2 + octets) * (10 * bitTime)
    let frame := fun (dest kind : Octet) (body : List Octet) =>
      let covered := [dest, 0, kind, ps.transmitCount, octetOf body.length] ++ body
      (0xC5 : Octet) :: covered ++ [highOctet (crc covered), lowOctet (crc covered)]
    let sending := fun (x : PortState) (t : Transaction) (octets : List Octet) =>
      { x with
        transaction := some t
        heard := if t.awaited = none then ps.heard else false
        transmitCount := ps.transmitCount + 1
        counters :=
          { ps.counters with
            stray := if ps.deframer = .hunting then ps.counters.stray else min 65535 (ps.counters.stray + 1) }
        deframer := .hunting
        receiver := { idle := 0, bits := none }
        sequencer := .sending octets s.tmo (ticks octets.length) : PortState }
    let down := decide (ps.link = .down)
    (ps.isSending = false → ps.txHigh = true) ∧
    (∀ (octets : List Octet) (tmo : Octet) (left k j : Nat), ps.sequencer = .sending octets tmo left → j < bitTime →
      k < 20 + 10 * octets.length → left + (k * bitTime + j) = ticks octets.length →
      ps.txHigh =
        if k < 20 then true
        else
          let i := (k - 20) % 10
          if i = 0 then false else if i = 9 then true else (octets.getD ((k - 20) / 10) 0).getLsbD (i - 1)) ∧
    (s.held = false → s.pins.txaHigh = s.portA.txHigh ∧ s.pins.txbHigh = s.portB.txHigh ∧
      s.pins.dea = s.portA.isSending ∧ s.pins.deb = s.portB.isSending) ∧
    (∀ e, s.grantPoll p e =
      ({ s with nodes := s.nodes.setIfInBounds e { s.node e with polled := true } } : State).setPort p
        (sending { ps with dueList := ps.dueList.erase e, lastGrant := .poll }
          { work := .poll, entry := some e, awaited := some (s.node e).address, allowed := 1 + (s.node e).retryLimit
            made := 1, firstInDown := down, retryPending := false, entryLost := false }
          (frame (octetOf (s.node e).address) 0x01 []))) ∧
    (∀ q, (s.requests.find? fun x : Request => x.tag = q.tag) = some q →
      s.grantRequest p q =
        ({ s with
            requests := s.requests.map fun x =>
              if x.tag = q.tag then { x with state := .inFlight, attempts := 1 } else x } : State).setPort p
          (sending { ps with lastGrant := .request }
            { work := .request q.tag q.itemType
              entry :=
                if q.address = 63 then none
                else (List.range 32).find? fun e =>
                  decide ((s.node e).state ≠ .vacant ∧ (s.node e).port = p ∧ (s.node e).address = q.address)
              awaited := if q.address = 63 then none else some q.address
              allowed := if q.address = 63 then 1 else 1 + q.retryCount
              made := 1, firstInDown := down, retryPending := false, entryLost := false }
            (frame (octetOf q.address) 0x03
              (q.itemType.setWidth 8 :: octetOf q.payload.length :: q.payload)))) ∧
    (∀ (t : Transaction) (a : Nat), t.work = .poll → t.awaited = some a → 1 ≤ t.made →
      s.startAttempt p t =
        s.setPort p
          (sending ps { t with made := t.made + 1, retryPending := false } (frame (octetOf a) 0x81 []))) ∧
    ∀ (t : Transaction) (tag : Octet) (itemType : ItemType) (q : Request), t.work = .request tag itemType →
      (s.requests.find? fun x : Request => x.tag = tag) = some q →
      s.startAttempt p t =
        ({ s with
            requests := s.requests.map fun x =>
              if x.tag = tag then { x with state := .inFlight, attempts := t.made + 1 } else x } : State).setPort p
          (sending ps { t with made := t.made + 1, retryPending := false }
            (frame (octetOf q.address) 0x03
              (q.itemType.setWidth 8 :: octetOf q.payload.length :: q.payload)))

/-! ### Epoch marks -/

/-- EPOCH_MARK (R158): a stopped timer has no boundary; at one, blocks that have an earlier mark outstanding take it
first, then the count rises, a pending period is applied, and the named blocks take the mark in the order given. A
block's own row takes a mark that is outstanding for it, the capture table's before the record access unit's (R52),
and else does nothing (the model's choice, entries 2 and 3). -/
def Obligations.EpochBoundaryEmitsMark : Prop :=
  ∀ (s : State) (blocks : List MarkBlock),
    exec (.epochMark blocks) s = .next
      (match s.epoch.period with
      | none => s
      | some _ =>
        let t := MarkBlock.all.foldl State.takeMark s
        blocks.foldl State.takeMark
          { t with
            marks := MarkBlock.all
            epoch :=
              { t.epoch with
                count := t.epoch.count + 1
                elapsed := 0
                pendingPeriod := none
                period :=
                  match t.epoch.pendingPeriod with
                  | none => t.epoch.period
                  | some v => if v = 0 then none else some v } }) ∧
    (∀ b, b ∉ s.marks → b ≠ .recordAccess → s.takeMark b = s) ∧
    (MarkBlock.captureTable ∉ s.marks → MarkBlock.recordAccess ∉ s.marks → s.takeMark .recordAccess = s) ∧
    (MarkBlock.captureTable ∈ s.marks → s.marks.Nodup →
      s.takeMark .recordAccess = (s.takeMark .captureTable).takeMark .recordAccess) ∧
    exec .recordStale s = .next (s.takeMark .captureTable) ∧ exec .holdExpiry s = .next (s.takeMark .recordAccess) ∧
    exec .fallsDue s = .next (s.takeMark .nodeTable) ∧ exec .deadlineExpiry s = .next (s.takeMark .requestPool) ∧
    (∀ p, exec (.crcWindowEnd p) s = .next (s.takeMark (.crcWindow p))) ∧
    exec .releaseCountdownEnd s = .next (s.takeMark .inhibitUnit)

/-- The capture table at a mark (R13, R14): every in-use record ages, a LIVE record at its stale limit becomes STALE
and joins the change queue, in ascending index, and a STALE record that counts makes DATA_STALE active (R24). The mark
outstanding: entry 2. -/
def Obligations.RecordsAgeAndGoStale : Prop :=
  ∀ s : State, InhibitOk s.inh → MarkBlock.captureTable ∈ s.marks →
    let aged := fun rec : Record => { rec with age := min 255 (rec.age + 1) }
    let stale := fun rec : Record =>
      decide (rec.state = .live ∧ rec.staleLimit ≠ 0 ∧ rec.staleLimit ≤ min 255 (rec.age + 1))
    let told := fun r : Nat => (s.record r).any fun rec => stale rec && decide (rec.policy ≠ .silent)
    let queued := fun r : Nat => (s.record r).any fun rec => rec.queued
    let t : State :=
      { s with
        marks := s.marks.erase .captureTable
        records := s.records.map fun x => x.map fun rec =>
          if stale rec then
            { aged rec with state := .stale, queued := rec.queued || decide (rec.policy ≠ .silent) }
          else aged rec
        queue :=
          (s.queue.map fun q =>
            if told q.record && queued q.record then { q with causes := q.causes ||| 0x08 } else q) ++
          ((List.range 48).filter fun r => told r && !queued r).map (fun r => ⟨r, 0x08⟩) }
    exec .recordStale s = .next
      (if (List.range 48).any fun r => (s.record r).any fun rec => stale rec && rec.inhibit then
        t.setCondition .dataStale true
      else t)

/-- The record access unit at a mark that the capture table has handled (R52): every hold ages; with HLIM not 0 the
holds that have reached it end in list order, each as by UNHOLD, with their shadows applied (R12), and HOLD_EXPIRED is
raised. The mark outstanding: entry 2. -/
def Obligations.HoldsAgeAndExpire : Prop :=
  ∀ s : State, HoldsOk s → MarkBlock.captureTable ∉ s.marks → MarkBlock.recordAccess ∈ s.marks →
    let aged := s.holds.map fun h => { h with age := min 255 (h.age + 1) }
    let expires := fun h : Hold => decide (s.hlim ≠ 0 ∧ s.hlim.toNat ≤ h.age)
    let gone := (aged.filter expires).map fun h => h.record
    let counted := fun (rec : Record) (sh : Shadow) => decide (sh.payload ≠ rec.payload ∨ rec.policy = .onUpdate)
    let sent := fun rec : Record => rec.shadow.any fun sh => counted rec sh && decide (rec.policy ≠ .silent)
    let told := fun r : Nat => gone.contains r && (s.record r).any sent
    let queued := fun r : Nat => (s.record r).any fun rec => rec.queued
    exec .holdExpiry s = .next
      { s with
        marks := s.marks.erase .recordAccess
        holds := aged.filter fun h => !expires h
        records := s.records.mapIdx fun r x => x.map fun rec =>
          if gone.contains r then
            match rec.shadow with
            | none => { rec with held := false }
            | some sh =>
              { rec with
                held := false
                shadow := none
                sequence := sh.sequence
                payload := sh.payload
                updateCount := if counted rec sh then rec.updateCount + 1 else rec.updateCount
                queued := rec.queued || sent rec }
          else rec
        queue :=
          (s.queue.map fun q =>
            if told q.record && queued q.record then { q with causes := q.causes ||| 0x02 } else q) ++
          (gone.filter fun r => told r && !queued r).map (fun r => ⟨r, 0x02⟩)
        sticky := if gone = [] then s.sticky else s.sticky ||| eventHoldExpired }

/-- An entry falls due (R130): listed or being polled, it slips; else it joins the tail of its port's due list, and
the arbiter evaluates (R96); its countdown is reloaded either way. At a mark the enabled entries of enabled ports
count in ascending index, and fall due at 0; where neither port can grant, because its sequencer is busy, every
entry's countdown, slips and place is explicit. The mark outstanding: entry 2. -/
def Obligations.CountdownsReachDue : Prop :=
  (∀ (s : State) (e : Nat),
    let n := s.node e
    let ps := s.port n.port
    s.fallDue e =
      if n.polled = true ∨ e ∈ ps.dueList then
        { s with
          nodes := s.nodes.setIfInBounds e { n with countdown := n.pollInterval, slips := min 255 (n.slips + 1) }
          sticky := s.sticky ||| eventSlip }
      else
        (({ s with nodes := s.nodes.setIfInBounds e { n with countdown := n.pollInterval } } : State).setPort n.port
          { ps with dueList := ps.dueList ++ [e] }).evaluate n.port) ∧
  ∀ s : State, MarkBlock.nodeTable ∈ s.marks →
    let taken : State := { s with marks := s.marks.erase .nodeTable }
    let counts := fun (t : State) (e : Nat) =>
      decide ((t.node e).state ≠ .vacant ∧ (t.node e).state ≠ .disabled ∧ (t.port (t.node e).port).link ≠ .disabled)
    exec .fallsDue s = .next
      ((List.range 32).foldl
        (fun t e =>
          if counts t e = false then t
          else if (t.node e).countdown ≤ 1 then t.fallDue e
          else t.setNode e { t.node e with countdown := (t.node e).countdown - 1 })
        taken) ∧
    ((∀ p, (s.port p).sequencer ≠ .idle) →
      let due := fun e : Nat => counts s e && decide ((s.node e).countdown ≤ 1)
      let slips := fun e : Nat =>
        due e && ((s.node e).polled || (s.port (s.node e).port).dueList.contains e)
      let joins := fun p : Port => (List.range 32).filter fun e => due e && !slips e && decide ((s.node e).port = p)
      exec .fallsDue s = .next
        { taken with
          nodes := s.nodes.mapIdx fun e n =>
            if counts s e = false then n
            else if due e = false then { n with countdown := n.countdown - 1 }
            else if slips e then { n with countdown := n.pollInterval, slips := min 255 (n.slips + 1) }
            else { n with countdown := n.pollInterval }
          portA := { s.portA with dueList := s.portA.dueList ++ joins .A }
          portB := { s.portB with dueList := s.portB.dueList ++ joins .B }
          sticky := if ∃ e ∈ List.range 32, slips e = true then s.sticky ||| eventSlip else s.sticky })

/-- The request pool at a mark (R143, R148, R149): every WAITING request's deadline above 0 counts down, those that
reach 0 complete EXPIRED in submission order, and the arbiter of each IDLE enabled port that lost its oldest WAITING
request evaluates (R96). Two such ports do so in either
order (the model's choice, entry 5). The mark outstanding: entry 2. -/
def Obligations.DeadlinesCountAndExpire : Prop :=
  ∀ s : State, PoolOk s → MarkBlock.requestPool ∈ s.marks →
    let expires := fun q : Request => decide (q.state = .waiting ∧ q.deadline = 1)
    let counted := fun q : Request => if q.state = .waiting then { q with deadline := q.deadline - 1 } else q
    let lost := fun p : Port =>
      decide ((s.port p).link ≠ .disabled ∧ (s.port p).sequencer = .idle) &&
        (s.requests.find? fun q : Request => q.port = p && q.state = .waiting).any expires
    let t : State :=
      { s with
        marks := s.marks.erase .requestPool
        requests := (s.requests.filter fun q => !expires q).map counted
        completions := s.completions ++ (s.requests.filter expires).map (fun q =>
          { tag := q.tag, status := .expired, attempts := q.attempts, epoch := s.epoch.count.truncate 16 }) }
    let chosen : State := { t with choices := t.choices + 1 }
    (lost .A = false → lost .B = false → exec .deadlineExpiry s = .next t) ∧
    (lost .A = true → lost .B = false → exec .deadlineExpiry s = .next (t.evaluate .A)) ∧
    (lost .A = false → lost .B = true → exec .deadlineExpiry s = .next (t.evaluate .B)) ∧
    (lost .A = true → lost .B = true →
      exec .deadlineExpiry s = .next ((chosen.evaluate .A).evaluate .B) ∨
      exec .deadlineExpiry s = .next ((chosen.evaluate .B).evaluate .A))

/-- The CRC-burst window of an enabled port (R89) and the release countdown (R173) at a mark. The mark outstanding:
entry 2. -/
def Obligations.WindowsAndReleaseCount : Prop :=
  ∀ s : State,
    (∀ p, MarkBlock.crcWindow p ∈ s.marks →
      let taken : State := { s with marks := s.marks.erase (.crcWindow p) }
      let ps := s.port p
      exec (.crcWindowEnd p) s = .next
        (if ps.link = .disabled then taken
        else if s.crcw.toNat ≤ ps.windowEpochs + 1 then
          taken.setPort p { ps with windowEpochs := 0, windowCrc := 0, fired := false }
        else taken.setPort p { ps with windowEpochs := ps.windowEpochs + 1 })) ∧
    (InhibitOk s.inh → MarkBlock.inhibitUnit ∈ s.marks →
      let taken : State := { s with marks := s.marks.erase .inhibitUnit }
      exec .releaseCountdownEnd s = .next
        (match s.inh.state with
        | .releasing n =>
          if n = 1 then
            afterInhibit s { taken with inh := { s.inh with state := .clear }, sticky := s.sticky ||| eventInhibit }
          else { taken with inh := { s.inh with state := .releasing (n - 1) } }
        | _ => taken))

/-- Where INH falls, the arbiter of each IDLE enabled port whose oldest WAITING request is inhibit-gated evaluates (R96,
R142), of two such ports in either order (entry 5). -/
def Obligations.InhFallStartsArbiters : Prop :=
  ∀ s t : State,
    let gated := fun p : Port =>
      decide ((t.port p).link ≠ .disabled ∧ (t.port p).sequencer = .idle) &&
        (t.requests.find? fun q : Request => q.port = p && q.state = .waiting).any fun q => q.gated
    let counted : State := { t with choices := t.choices + 1 }
    ((s.inhAsserted = false ∨ t.inhAsserted = true) → afterInhibit s t = t) ∧
    (s.inhAsserted = true → t.inhAsserted = false →
      (gated .A = false → gated .B = false → afterInhibit s t = t) ∧
      (gated .A = true → gated .B = false → afterInhibit s t = t.evaluate .A) ∧
      (gated .A = false → gated .B = true → afterInhibit s t = t.evaluate .B) ∧
      (gated .A = true → gated .B = true →
        afterInhibit s t = (counted.evaluate .A).evaluate .B ∨
        afterInhibit s t = (counted.evaluate .B).evaluate .A))

/-! ### Items, filters and arrivals -/

/-- The decision on an item (R61, R62, R63) and what becomes of it (R60, R64, R65): the lowest-numbered enabled filter
whose port, address and type tests pass decides, else the default action (R59); a captured item is one arrival with the
decision's attributes, a discarded one is counted on the entry's port. -/
def Obligations.ItemsAreClassified : Prop :=
  ∀ (s : State) (e : Nat) (seq : Octet) (item : Item),
    let n := s.node e
    let hits := fun f : Filter =>
      f.enabled = true ∧ (f.portMatch = .either ∨ f.portMatch = .only n.port) ∧ f.addressLow ≤ n.address ∧
        n.address ≤ f.addressHigh ∧
        ∀ b < 7, f.typeMask.getLsbD b = true → item.itemType.getLsbD b = f.typeValue.getLsbD b
    let discarded :=
      s.setPort n.port
        { s.port n.port with
          counters :=
            { (s.port n.port).counters with discarded := min 65535 ((s.port n.port).counters.discarded + 1) } }
    (∀ i < 16, hits (s.filter i) → (∀ j < i, ¬hits (s.filter j)) →
      State.takeItem e seq s item =
        match (s.filter i).action with
        | .discard => discarded
        | .capture =>
          s.arrive e item seq
            { filterIndex := i, policy := (s.filter i).policy, staleLimit := (s.filter i).staleLimit
              inhibit := (s.filter i).inhibit, pinOnAllocate := (s.filter i).pinOnAllocate }) ∧
    ((∀ i < 16, ¬hits (s.filter i)) →
      State.takeItem e seq s item =
        match s.defa with
        | .discard => discarded
        | .capture =>
          s.arrive e item seq
            { filterIndex := 16, policy := .onChange, staleLimit := 0, inhibit := false, pinOnAllocate := false })

/-- An arrival for a key that has its one record (R2): the state side takes the attributes and age 0 and is LIVE (R9,
R11); unheld, the payload side changes as R10 has it; held, it goes to the shadow, counted where it overwrites one (R11).
The causes REVIVED and UPDATE go to the change queue together unless the policy is SILENT (R23, R31, R32), and a revived
record reports DATA_STALE (R24). -/
def Obligations.ArrivalUpdatesRecord : Prop :=
  ∀ (s : State) (r e : Nat) (rec : Record) (item : Item) (seq : Octet) (a : ItemAttributes), KeysOk s →
    s.record r = some rec → rec.entry = e → rec.itemType = item.itemType →
    let differs := decide (item.payload ≠ rec.payload)
    let updates := !rec.held && (differs || decide (a.policy = .onUpdate))
    let causes : BitVec 5 := (if rec.state = .live then 0 else 0x04) ||| (if updates then 0x02 else 0)
    let told := decide (a.policy ≠ .silent ∧ causes ≠ 0)
    let attributed : Record :=
      { rec with
        filterIndex := a.filterIndex, policy := a.policy, staleLimit := a.staleLimit, inhibit := a.inhibit, age := 0
        state := .live, queued := rec.queued || told }
    let taken : Record :=
      if rec.held then { attributed with shadow := some ⟨item.payload, seq⟩ }
      else
        { attributed with
          sequence := seq, payload := item.payload
          updateCount := if updates then rec.updateCount + 1 else rec.updateCount }
    let t : State :=
      { s with
        records := s.records.setIfInBounds r (some taken)
        queue :=
          if told = false then s.queue
          else if rec.queued then
            s.queue.map fun q => if q.record = r then { q with causes := q.causes ||| causes } else q
          else s.queue ++ [⟨r, causes⟩]
        shadowOverwrites :=
          if rec.held && rec.shadow.isSome then min 65535 (s.shadowOverwrites + 1) else s.shadowOverwrites }
    s.arrive e item seq a = if rec.state = .live then t else t.report .dataStale t.dataStaleLevel

/-- An arrival for a key that has no record (R5 to R8): the lowest-numbered FREE record takes it; in a full table the
oldest unprotected STALE or ORPHAN record does, the lowest-numbered of equals, after its queue entry is removed; with
neither the item is dropped. NEW joins the queue unless the policy is SILENT. -/
def Obligations.ArrivalAllocatesRecord : Prop :=
  ∀ (s : State) (e : Nat) (item : Item) (seq : Octet) (a : ItemAttributes),
    (∀ r rec, s.record r = some rec → rec.entry ≠ e ∨ rec.itemType ≠ item.itemType) →
    let told := decide (a.policy ≠ .silent)
    let fresh : Record :=
      { entry := e, itemType := item.itemType, state := .live, payload := item.payload, sequence := seq, age := 0
        updateCount := 1, filterIndex := a.filterIndex, policy := a.policy, staleLimit := a.staleLimit
        inhibit := a.inhibit, pinned := a.pinOnAllocate, held := false, shadow := none, queued := told }
    let protect := fun rec : Record => rec.pinned = true ∨ rec.held = true ∨ rec.state = .live
    (∀ r < 48, s.record r = none → (∀ j < r, s.record j ≠ none) →
      s.arrive e item seq a =
        { s with
          records := s.records.setIfInBounds r (some fresh)
          queue := if told then s.queue ++ [⟨r, 0x01⟩] else s.queue }) ∧
    ((∀ r < 48, s.record r ≠ none) →
      (∀ r rec, s.record r = some rec → ¬protect rec →
        (∀ j other, s.record j = some other → ¬protect other →
          other.age < rec.age ∨ (other.age = rec.age ∧ r ≤ j)) →
        let t : State :=
          { s with
            records := s.records.setIfInBounds r (some fresh)
            queue := (s.queue.filter fun q => q.record ≠ r) ++ (if told then [⟨r, 0x01⟩] else [])
            evictions := min 65535 (s.evictions + 1) }
        s.arrive e item seq a = if rec.inhibit then t.report .dataStale t.dataStaleLevel else t) ∧
      ((∀ r rec, s.record r = some rec → protect rec) →
        s.arrive e item seq a =
          ({ s with drops := min 65535 (s.drops + 1), sticky := s.sticky ||| eventTableFull } : State).setCondition
            .tableFull true))

/-! ### Frames as octets -/

/-- The check of R73 and the classes of R77. Nine ASCII digits give 29B1h, and octets followed by their check leave 0000h.
The DATA, ACK and NAK frames that a node builds by R71, R72 and R199 are read back whole, and with another destination
they are FOREIGN. A frame cut short, its body length above 96 included, is FORMAT (R76); so is every frame whose body
fails check 1 for its kind, a DATA body that its items do not fill exactly among them, whatever its check octets; a frame
that passes check 1 with a wrong check is CRC; and with a right check a frame of another kind, from a source outside 1 to
62, or that fails check 4 is FORMAT. -/
def Obligations.FrameOctetsRoundTrip : Prop :=
  let covered := fun (dest source kind seq : Octet) (body : List Octet) =>
    [dest, source, kind, seq, octetOf body.length] ++ body
  let frame := fun (dest source kind seq : Octet) (body : List Octet) =>
    let os := covered dest source kind seq body
    os ++ [highOctet (crc os), lowOctet (crc os)]
  let carried := fun items : List Item => octetOf items.length ::
    items.flatMap fun i => i.itemType.setWidth 8 :: octetOf i.payload.length :: i.payload
  let listens := fun kind : Octet => kind &&& 0x0F = 0x02 ∨ kind &&& 0x0F = 0x04 ∨ kind &&& 0x0F = 0x05
  let fits := fun (kind : Octet) (body : List Octet) =>
    (kind &&& 0x0F = 0x02 →
      ∃ parts : List (Octet × List Octet), (∀ x ∈ parts, x.2.length ≤ 24) ∧
        body = octetOf parts.length :: parts.flatMap fun x => x.1 :: octetOf x.2.length :: x.2) ∧
    (kind &&& 0x0F = 0x04 → body.length = 1) ∧ (kind &&& 0x0F = 0x05 → body.length = 2)
  crc [0x31, 0x32, 0x33, 0x34, 0x35, 0x36, 0x37, 0x38, 0x39] = 0x29B1 ∧
  (∀ os : List Octet, crc (os ++ [highOctet (crc os), lowOctet (crc os)]) = 0) ∧
  (∀ (source seq : Octet), 1 ≤ source.toNat → source.toNat ≤ 62 →
    (∀ items : List Item, 1 ≤ items.length → items.length ≤ 4 → (∀ i ∈ items, i.itemType ≠ 0 ∧ i.payload.length ≤ 24) →
      (items.map fun i => i.itemType).Nodup → (carried items).length ≤ 96 →
      classify (frame 0 source 0x02 seq (carried items)) = .valid ⟨source.toNat, seq, .data items⟩ ∧
      ∀ dest : Octet, 1 ≤ dest.toNat → dest.toNat ≤ 63 →
        classify (frame dest source 0x02 seq (carried items)) = .foreign) ∧
    (∀ t : ItemType, t ≠ 0 →
      classify (frame 0 source 0x04 seq [t.setWidth 8]) = .valid ⟨source.toNat, seq, .ack t⟩ ∧
      classify (frame 0 source 0x05 seq [t.setWidth 8, 1]) = .valid ⟨source.toNat, seq, .nak t .busy⟩ ∧
      classify (frame 0 source 0x05 seq [t.setWidth 8, 2]) = .valid ⟨source.toNat, seq, .nak t .unknownType⟩ ∧
      classify (frame 0 source 0x05 seq [t.setWidth 8, 3]) = .valid ⟨source.toNat, seq, .nak t .refused⟩ ∧
      ∀ dest : Octet, 1 ≤ dest.toNat → dest.toNat ≤ 63 →
        classify (frame dest source 0x04 seq [t.setWidth 8]) = .foreign ∧
        ∀ reason : Octet, 1 ≤ reason.toNat → reason.toNat ≤ 3 →
          classify (frame dest source 0x05 seq [t.setWidth 8, reason]) = .foreign)) ∧
  (∀ octets : List Octet, octets.length < 5 → classify octets = .format) ∧
  ∀ (dest source seq : Octet),
    (∀ (kind len : Octet) (rest : List Octet), 96 < len.toNat ∨ rest.length < len.toNat + 2 →
      classify (dest :: source :: kind :: seq :: len :: rest) = .format) ∧
    (∀ (kind : Octet) (body check : List Octet), body.length ≤ 96 → check.length = 2 →
      let got := classify (covered dest source kind seq body ++ check)
      (¬fits kind body → got = .format) ∧
      (fits kind body → crc (covered dest source kind seq body ++ check) ≠ 0 → got = .crc)) ∧
    (∀ (kind : Octet) (body : List Octet), body.length ≤ 96 →
      ¬listens kind ∨ source &&& 0x3F = 0 ∨ source &&& 0x3F = 63 →
      classify (frame dest source kind seq body) = .format) ∧
    (∀ (count : Octet) (rest : List Octet), rest.length ≤ 95 → count.toNat = 0 ∨ 4 < count.toNat →
      classify (frame dest source 0x02 seq (count :: rest)) = .format) ∧
    (∀ items : List Item, (carried items).length ≤ 96 →
      (∃ i ∈ items, i.itemType = 0) ∨ ¬(items.map fun i => i.itemType).Nodup →
      classify (frame dest source 0x02 seq (carried items)) = .format) ∧
    (∀ (t reason : Octet), t &&& 0x7F = 0 →
      classify (frame dest source 0x04 seq [t]) = .format ∧ classify (frame dest source 0x05 seq [t, reason]) = .format) ∧
    ∀ (t reason : Octet), reason.toNat = 0 ∨ 3 < reason.toNat →
      classify (frame dest source 0x05 seq [t, reason]) = .format

/-! ### Invariants of every step -/

/-- R170 and the countdown's range: an unmasked active condition and ASSERTED go together, in every state that a step
reaches from one in which they do. -/
def Obligations.InhibitUnitInvariant : Prop :=
  ∀ s t : State, InhibitOk s.inh → step s = .next t → InhibitOk t.inh

/-- R29, R30 and R48: every step keeps the change queue and the hold list in agreement with the records. -/
def Obligations.QueueAndHoldsInvariant : Prop :=
  (∀ s t : State, QueueOk s → step s = .next t → QueueOk t) ∧
  ∀ s t : State, HoldsOk s → step s = .next t → HoldsOk t

/-- Every step keeps the pool within its 16 slots with its tags apart (R136), the keys of the records apart (R2), and each
port's transaction in agreement with its sequencer (R94, R95, R106, R108). It keeps what waits as the model has it, which
is the model's choice and no rule's: no mark is outstanding twice for a block (entry 2), and at the head of a held part's
queue stands HARD_RESET, the end of the held period (entries 1 and 12). -/
def Obligations.PoolAndKeysInvariant : Prop :=
  (∀ s t : State, PoolOk s → step s = .next t → PoolOk t) ∧
  (∀ s t : State, KeysOk s → step s = .next t → KeysOk t) ∧
  (∀ s t : State, PortsOk s → step s = .next t → PortsOk t) ∧
  ∀ s t : State, WaitingOk s → step s = .next t → WaitingOk t

/-- The state after reset meets every invariant, and so does the state that HARD_RESET leaves. That no mark is outstanding
then, and what waits in a part whose RESET# falls, is the model's choice (entries 2 and 12). -/
def Obligations.ResetMeetsInvariants : Prop :=
  (InhibitOk State.reset.inh ∧ QueueOk State.reset ∧ HoldsOk State.reset ∧ PoolOk State.reset ∧ KeysOk State.reset ∧
    PortsOk State.reset ∧ WaitingOk State.reset) ∧
  (∀ s t : State, exec .hardReset s = .next t →
    InhibitOk t.inh ∧ QueueOk t ∧ HoldsOk t ∧ PoolOk t ∧ KeysOk t ∧ PortsOk t ∧ WaitingOk t) ∧
  ∀ s : State, WaitingOk s → WaitingOk s.resetFalls
end

