-- ==== Sys2Proof/Laws/State.lean ====
section
/-! SUPPORT. One lemma per field per update of State, so that later proofs unfold no record update, and what
reading a numbered part gives after writing one. -/

namespace Sys2Proof.Machine

variable (s : State)

/-! ### taken -/

@[simp] theorem State.taken_args (c : Octet) : (s.taken c).args = s.args := rfl
@[simp] theorem State.taken_staging (c : Octet) : (s.taken c).staging = s.staging := rfl
@[simp] theorem State.taken_rslt (c : Octet) : (s.taken c).rslt = s.rslt := rfl
@[simp] theorem State.taken_res (c : Octet) : (s.taken c).res = s.res := rfl
@[simp] theorem State.taken_view (c : Octet) : (s.taken c).view = s.view := rfl
@[simp] theorem State.taken_holds (c : Octet) : (s.taken c).holds = s.holds := rfl
@[simp] theorem State.taken_hlim (c : Octet) : (s.taken c).hlim = s.hlim := rfl
@[simp] theorem State.taken_records (c : Octet) : (s.taken c).records = s.records := rfl
@[simp] theorem State.taken_evictions (c : Octet) : (s.taken c).evictions = s.evictions := rfl
@[simp] theorem State.taken_drops (c : Octet) : (s.taken c).drops = s.drops := rfl
@[simp] theorem State.taken_shadowOverwrites (c : Octet) : (s.taken c).shadowOverwrites = s.shadowOverwrites := rfl
@[simp] theorem State.taken_queue (c : Octet) : (s.taken c).queue = s.queue := rfl
@[simp] theorem State.taken_filters (c : Octet) : (s.taken c).filters = s.filters := rfl
@[simp] theorem State.taken_defa (c : Octet) : (s.taken c).defa = s.defa := rfl
@[simp] theorem State.taken_portA (c : Octet) : (s.taken c).portA = s.portA := rfl
@[simp] theorem State.taken_portB (c : Octet) : (s.taken c).portB = s.portB := rfl
@[simp] theorem State.taken_tmo (c : Octet) : (s.taken c).tmo = s.tmo := rfl
@[simp] theorem State.taken_qgap (c : Octet) : (s.taken c).qgap = s.qgap := rfl
@[simp] theorem State.taken_silim (c : Octet) : (s.taken c).silim = s.silim := rfl
@[simp] theorem State.taken_crct (c : Octet) : (s.taken c).crct = s.crct := rfl
@[simp] theorem State.taken_crcw (c : Octet) : (s.taken c).crcw = s.crcw := rfl
@[simp] theorem State.taken_nodes (c : Octet) : (s.taken c).nodes = s.nodes := rfl
@[simp] theorem State.taken_requests (c : Octet) : (s.taken c).requests = s.requests := rfl
@[simp] theorem State.taken_completions (c : Octet) : (s.taken c).completions = s.completions := rfl
@[simp] theorem State.taken_epoch (c : Octet) : (s.taken c).epoch = s.epoch := rfl
@[simp] theorem State.taken_inh (c : Octet) : (s.taken c).inh = s.inh := rfl
@[simp] theorem State.taken_sticky (c : Octet) : (s.taken c).sticky = s.sticky := rfl
@[simp] theorem State.taken_enables (c : Octet) : (s.taken c).enables = s.enables := rfl
@[simp] theorem State.taken_host (c : Octet) : (s.taken c).host = s.host := rfl
@[simp] theorem State.taken_held (c : Octet) : (s.taken c).held = s.held := rfl
@[simp] theorem State.taken_marks (c : Octet) : (s.taken c).marks = s.marks := rfl
@[simp] theorem State.taken_choices (c : Octet) : (s.taken c).choices = s.choices := rfl
@[simp] theorem State.taken_pending (c : Octet) : (s.taken c).pending = s.pending := rfl

@[simp] theorem State.taken_cmd (c : Octet) : (s.taken c).cmd = c := rfl

/-! ### result -/

@[simp] theorem State.result_cmd (c : ResultCode) (os : List Octet) : (s.result c os).cmd = s.cmd := rfl
@[simp] theorem State.result_args (c : ResultCode) (os : List Octet) : (s.result c os).args = s.args := rfl
@[simp] theorem State.result_staging (c : ResultCode) (os : List Octet) : (s.result c os).staging = s.staging := rfl
@[simp] theorem State.result_view (c : ResultCode) (os : List Octet) : (s.result c os).view = s.view := rfl
@[simp] theorem State.result_holds (c : ResultCode) (os : List Octet) : (s.result c os).holds = s.holds := rfl
@[simp] theorem State.result_hlim (c : ResultCode) (os : List Octet) : (s.result c os).hlim = s.hlim := rfl
@[simp] theorem State.result_records (c : ResultCode) (os : List Octet) : (s.result c os).records = s.records := rfl
@[simp] theorem State.result_evictions (c : ResultCode) (os : List Octet) : (s.result c os).evictions = s.evictions := rfl
@[simp] theorem State.result_drops (c : ResultCode) (os : List Octet) : (s.result c os).drops = s.drops := rfl
@[simp] theorem State.result_shadowOverwrites (c : ResultCode) (os : List Octet) : (s.result c os).shadowOverwrites = s.shadowOverwrites := rfl
@[simp] theorem State.result_queue (c : ResultCode) (os : List Octet) : (s.result c os).queue = s.queue := rfl
@[simp] theorem State.result_filters (c : ResultCode) (os : List Octet) : (s.result c os).filters = s.filters := rfl
@[simp] theorem State.result_defa (c : ResultCode) (os : List Octet) : (s.result c os).defa = s.defa := rfl
@[simp] theorem State.result_portA (c : ResultCode) (os : List Octet) : (s.result c os).portA = s.portA := rfl
@[simp] theorem State.result_portB (c : ResultCode) (os : List Octet) : (s.result c os).portB = s.portB := rfl
@[simp] theorem State.result_tmo (c : ResultCode) (os : List Octet) : (s.result c os).tmo = s.tmo := rfl
@[simp] theorem State.result_qgap (c : ResultCode) (os : List Octet) : (s.result c os).qgap = s.qgap := rfl
@[simp] theorem State.result_silim (c : ResultCode) (os : List Octet) : (s.result c os).silim = s.silim := rfl
@[simp] theorem State.result_crct (c : ResultCode) (os : List Octet) : (s.result c os).crct = s.crct := rfl
@[simp] theorem State.result_crcw (c : ResultCode) (os : List Octet) : (s.result c os).crcw = s.crcw := rfl
@[simp] theorem State.result_nodes (c : ResultCode) (os : List Octet) : (s.result c os).nodes = s.nodes := rfl
@[simp] theorem State.result_requests (c : ResultCode) (os : List Octet) : (s.result c os).requests = s.requests := rfl
@[simp] theorem State.result_completions (c : ResultCode) (os : List Octet) : (s.result c os).completions = s.completions := rfl
@[simp] theorem State.result_epoch (c : ResultCode) (os : List Octet) : (s.result c os).epoch = s.epoch := rfl
@[simp] theorem State.result_inh (c : ResultCode) (os : List Octet) : (s.result c os).inh = s.inh := rfl
@[simp] theorem State.result_sticky (c : ResultCode) (os : List Octet) : (s.result c os).sticky = s.sticky := rfl
@[simp] theorem State.result_enables (c : ResultCode) (os : List Octet) : (s.result c os).enables = s.enables := rfl
@[simp] theorem State.result_host (c : ResultCode) (os : List Octet) : (s.result c os).host = s.host := rfl
@[simp] theorem State.result_held (c : ResultCode) (os : List Octet) : (s.result c os).held = s.held := rfl
@[simp] theorem State.result_marks (c : ResultCode) (os : List Octet) : (s.result c os).marks = s.marks := rfl
@[simp] theorem State.result_choices (c : ResultCode) (os : List Octet) : (s.result c os).choices = s.choices := rfl
@[simp] theorem State.result_pending (c : ResultCode) (os : List Octet) : (s.result c os).pending = s.pending := rfl

@[simp] theorem State.result_rslt (c : ResultCode) (os : List Octet) : (s.result c os).rslt = c := rfl
@[simp] theorem State.result_res (c : ResultCode) (os : List Octet) : (s.result c os).res = resultOctets os := rfl

/-! ### raise -/

@[simp] theorem State.raise_cmd (e : BitVec 9) : (s.raise e).cmd = s.cmd := rfl
@[simp] theorem State.raise_args (e : BitVec 9) : (s.raise e).args = s.args := rfl
@[simp] theorem State.raise_staging (e : BitVec 9) : (s.raise e).staging = s.staging := rfl
@[simp] theorem State.raise_rslt (e : BitVec 9) : (s.raise e).rslt = s.rslt := rfl
@[simp] theorem State.raise_res (e : BitVec 9) : (s.raise e).res = s.res := rfl
@[simp] theorem State.raise_view (e : BitVec 9) : (s.raise e).view = s.view := rfl
@[simp] theorem State.raise_holds (e : BitVec 9) : (s.raise e).holds = s.holds := rfl
@[simp] theorem State.raise_hlim (e : BitVec 9) : (s.raise e).hlim = s.hlim := rfl
@[simp] theorem State.raise_records (e : BitVec 9) : (s.raise e).records = s.records := rfl
@[simp] theorem State.raise_evictions (e : BitVec 9) : (s.raise e).evictions = s.evictions := rfl
@[simp] theorem State.raise_drops (e : BitVec 9) : (s.raise e).drops = s.drops := rfl
@[simp] theorem State.raise_shadowOverwrites (e : BitVec 9) : (s.raise e).shadowOverwrites = s.shadowOverwrites := rfl
@[simp] theorem State.raise_queue (e : BitVec 9) : (s.raise e).queue = s.queue := rfl
@[simp] theorem State.raise_filters (e : BitVec 9) : (s.raise e).filters = s.filters := rfl
@[simp] theorem State.raise_defa (e : BitVec 9) : (s.raise e).defa = s.defa := rfl
@[simp] theorem State.raise_portA (e : BitVec 9) : (s.raise e).portA = s.portA := rfl
@[simp] theorem State.raise_portB (e : BitVec 9) : (s.raise e).portB = s.portB := rfl
@[simp] theorem State.raise_tmo (e : BitVec 9) : (s.raise e).tmo = s.tmo := rfl
@[simp] theorem State.raise_qgap (e : BitVec 9) : (s.raise e).qgap = s.qgap := rfl
@[simp] theorem State.raise_silim (e : BitVec 9) : (s.raise e).silim = s.silim := rfl
@[simp] theorem State.raise_crct (e : BitVec 9) : (s.raise e).crct = s.crct := rfl
@[simp] theorem State.raise_crcw (e : BitVec 9) : (s.raise e).crcw = s.crcw := rfl
@[simp] theorem State.raise_nodes (e : BitVec 9) : (s.raise e).nodes = s.nodes := rfl
@[simp] theorem State.raise_requests (e : BitVec 9) : (s.raise e).requests = s.requests := rfl
@[simp] theorem State.raise_completions (e : BitVec 9) : (s.raise e).completions = s.completions := rfl
@[simp] theorem State.raise_epoch (e : BitVec 9) : (s.raise e).epoch = s.epoch := rfl
@[simp] theorem State.raise_inh (e : BitVec 9) : (s.raise e).inh = s.inh := rfl
@[simp] theorem State.raise_enables (e : BitVec 9) : (s.raise e).enables = s.enables := rfl
@[simp] theorem State.raise_host (e : BitVec 9) : (s.raise e).host = s.host := rfl
@[simp] theorem State.raise_held (e : BitVec 9) : (s.raise e).held = s.held := rfl
@[simp] theorem State.raise_marks (e : BitVec 9) : (s.raise e).marks = s.marks := rfl
@[simp] theorem State.raise_choices (e : BitVec 9) : (s.raise e).choices = s.choices := rfl
@[simp] theorem State.raise_pending (e : BitVec 9) : (s.raise e).pending = s.pending := rfl

@[simp] theorem State.raise_sticky (e : BitVec 9) : (s.raise e).sticky = s.sticky ||| e := rfl

/-! ### setRecord -/

@[simp] theorem State.setRecord_cmd (r : Nat) (o : Option Record) : (s.setRecord r o).cmd = s.cmd := rfl
@[simp] theorem State.setRecord_args (r : Nat) (o : Option Record) : (s.setRecord r o).args = s.args := rfl
@[simp] theorem State.setRecord_staging (r : Nat) (o : Option Record) : (s.setRecord r o).staging = s.staging := rfl
@[simp] theorem State.setRecord_rslt (r : Nat) (o : Option Record) : (s.setRecord r o).rslt = s.rslt := rfl
@[simp] theorem State.setRecord_res (r : Nat) (o : Option Record) : (s.setRecord r o).res = s.res := rfl
@[simp] theorem State.setRecord_view (r : Nat) (o : Option Record) : (s.setRecord r o).view = s.view := rfl
@[simp] theorem State.setRecord_holds (r : Nat) (o : Option Record) : (s.setRecord r o).holds = s.holds := rfl
@[simp] theorem State.setRecord_hlim (r : Nat) (o : Option Record) : (s.setRecord r o).hlim = s.hlim := rfl
@[simp] theorem State.setRecord_evictions (r : Nat) (o : Option Record) : (s.setRecord r o).evictions = s.evictions := rfl
@[simp] theorem State.setRecord_drops (r : Nat) (o : Option Record) : (s.setRecord r o).drops = s.drops := rfl
@[simp] theorem State.setRecord_shadowOverwrites (r : Nat) (o : Option Record) : (s.setRecord r o).shadowOverwrites = s.shadowOverwrites := rfl
@[simp] theorem State.setRecord_queue (r : Nat) (o : Option Record) : (s.setRecord r o).queue = s.queue := rfl
@[simp] theorem State.setRecord_filters (r : Nat) (o : Option Record) : (s.setRecord r o).filters = s.filters := rfl
@[simp] theorem State.setRecord_defa (r : Nat) (o : Option Record) : (s.setRecord r o).defa = s.defa := rfl
@[simp] theorem State.setRecord_portA (r : Nat) (o : Option Record) : (s.setRecord r o).portA = s.portA := rfl
@[simp] theorem State.setRecord_portB (r : Nat) (o : Option Record) : (s.setRecord r o).portB = s.portB := rfl
@[simp] theorem State.setRecord_tmo (r : Nat) (o : Option Record) : (s.setRecord r o).tmo = s.tmo := rfl
@[simp] theorem State.setRecord_qgap (r : Nat) (o : Option Record) : (s.setRecord r o).qgap = s.qgap := rfl
@[simp] theorem State.setRecord_silim (r : Nat) (o : Option Record) : (s.setRecord r o).silim = s.silim := rfl
@[simp] theorem State.setRecord_crct (r : Nat) (o : Option Record) : (s.setRecord r o).crct = s.crct := rfl
@[simp] theorem State.setRecord_crcw (r : Nat) (o : Option Record) : (s.setRecord r o).crcw = s.crcw := rfl
@[simp] theorem State.setRecord_nodes (r : Nat) (o : Option Record) : (s.setRecord r o).nodes = s.nodes := rfl
@[simp] theorem State.setRecord_requests (r : Nat) (o : Option Record) : (s.setRecord r o).requests = s.requests := rfl
@[simp] theorem State.setRecord_completions (r : Nat) (o : Option Record) : (s.setRecord r o).completions = s.completions := rfl
@[simp] theorem State.setRecord_epoch (r : Nat) (o : Option Record) : (s.setRecord r o).epoch = s.epoch := rfl
@[simp] theorem State.setRecord_inh (r : Nat) (o : Option Record) : (s.setRecord r o).inh = s.inh := rfl
@[simp] theorem State.setRecord_sticky (r : Nat) (o : Option Record) : (s.setRecord r o).sticky = s.sticky := rfl
@[simp] theorem State.setRecord_enables (r : Nat) (o : Option Record) : (s.setRecord r o).enables = s.enables := rfl
@[simp] theorem State.setRecord_host (r : Nat) (o : Option Record) : (s.setRecord r o).host = s.host := rfl
@[simp] theorem State.setRecord_held (r : Nat) (o : Option Record) : (s.setRecord r o).held = s.held := rfl
@[simp] theorem State.setRecord_marks (r : Nat) (o : Option Record) : (s.setRecord r o).marks = s.marks := rfl
@[simp] theorem State.setRecord_choices (r : Nat) (o : Option Record) : (s.setRecord r o).choices = s.choices := rfl
@[simp] theorem State.setRecord_pending (r : Nat) (o : Option Record) : (s.setRecord r o).pending = s.pending := rfl

@[simp] theorem State.setRecord_records (r : Nat) (o : Option Record) : (s.setRecord r o).records = s.records.setIfInBounds r o := rfl

/-! ### setNode -/

@[simp] theorem State.setNode_cmd (e : Nat) (n : NodeEntry) : (s.setNode e n).cmd = s.cmd := rfl
@[simp] theorem State.setNode_args (e : Nat) (n : NodeEntry) : (s.setNode e n).args = s.args := rfl
@[simp] theorem State.setNode_staging (e : Nat) (n : NodeEntry) : (s.setNode e n).staging = s.staging := rfl
@[simp] theorem State.setNode_rslt (e : Nat) (n : NodeEntry) : (s.setNode e n).rslt = s.rslt := rfl
@[simp] theorem State.setNode_res (e : Nat) (n : NodeEntry) : (s.setNode e n).res = s.res := rfl
@[simp] theorem State.setNode_view (e : Nat) (n : NodeEntry) : (s.setNode e n).view = s.view := rfl
@[simp] theorem State.setNode_holds (e : Nat) (n : NodeEntry) : (s.setNode e n).holds = s.holds := rfl
@[simp] theorem State.setNode_hlim (e : Nat) (n : NodeEntry) : (s.setNode e n).hlim = s.hlim := rfl
@[simp] theorem State.setNode_records (e : Nat) (n : NodeEntry) : (s.setNode e n).records = s.records := rfl
@[simp] theorem State.setNode_evictions (e : Nat) (n : NodeEntry) : (s.setNode e n).evictions = s.evictions := rfl
@[simp] theorem State.setNode_drops (e : Nat) (n : NodeEntry) : (s.setNode e n).drops = s.drops := rfl
@[simp] theorem State.setNode_shadowOverwrites (e : Nat) (n : NodeEntry) : (s.setNode e n).shadowOverwrites = s.shadowOverwrites := rfl
@[simp] theorem State.setNode_queue (e : Nat) (n : NodeEntry) : (s.setNode e n).queue = s.queue := rfl
@[simp] theorem State.setNode_filters (e : Nat) (n : NodeEntry) : (s.setNode e n).filters = s.filters := rfl
@[simp] theorem State.setNode_defa (e : Nat) (n : NodeEntry) : (s.setNode e n).defa = s.defa := rfl
@[simp] theorem State.setNode_portA (e : Nat) (n : NodeEntry) : (s.setNode e n).portA = s.portA := rfl
@[simp] theorem State.setNode_portB (e : Nat) (n : NodeEntry) : (s.setNode e n).portB = s.portB := rfl
@[simp] theorem State.setNode_tmo (e : Nat) (n : NodeEntry) : (s.setNode e n).tmo = s.tmo := rfl
@[simp] theorem State.setNode_qgap (e : Nat) (n : NodeEntry) : (s.setNode e n).qgap = s.qgap := rfl
@[simp] theorem State.setNode_silim (e : Nat) (n : NodeEntry) : (s.setNode e n).silim = s.silim := rfl
@[simp] theorem State.setNode_crct (e : Nat) (n : NodeEntry) : (s.setNode e n).crct = s.crct := rfl
@[simp] theorem State.setNode_crcw (e : Nat) (n : NodeEntry) : (s.setNode e n).crcw = s.crcw := rfl
@[simp] theorem State.setNode_requests (e : Nat) (n : NodeEntry) : (s.setNode e n).requests = s.requests := rfl
@[simp] theorem State.setNode_completions (e : Nat) (n : NodeEntry) : (s.setNode e n).completions = s.completions := rfl
@[simp] theorem State.setNode_epoch (e : Nat) (n : NodeEntry) : (s.setNode e n).epoch = s.epoch := rfl
@[simp] theorem State.setNode_inh (e : Nat) (n : NodeEntry) : (s.setNode e n).inh = s.inh := rfl
@[simp] theorem State.setNode_sticky (e : Nat) (n : NodeEntry) : (s.setNode e n).sticky = s.sticky := rfl
@[simp] theorem State.setNode_enables (e : Nat) (n : NodeEntry) : (s.setNode e n).enables = s.enables := rfl
@[simp] theorem State.setNode_host (e : Nat) (n : NodeEntry) : (s.setNode e n).host = s.host := rfl
@[simp] theorem State.setNode_held (e : Nat) (n : NodeEntry) : (s.setNode e n).held = s.held := rfl
@[simp] theorem State.setNode_marks (e : Nat) (n : NodeEntry) : (s.setNode e n).marks = s.marks := rfl
@[simp] theorem State.setNode_choices (e : Nat) (n : NodeEntry) : (s.setNode e n).choices = s.choices := rfl
@[simp] theorem State.setNode_pending (e : Nat) (n : NodeEntry) : (s.setNode e n).pending = s.pending := rfl

@[simp] theorem State.setNode_nodes (e : Nat) (n : NodeEntry) : (s.setNode e n).nodes = s.nodes.setIfInBounds e n := rfl

/-! ### setPort -/

@[simp] theorem State.setPort_cmd (p : Port) (x : PortState) : (s.setPort p x).cmd = s.cmd := by cases p <;> rfl
@[simp] theorem State.setPort_args (p : Port) (x : PortState) : (s.setPort p x).args = s.args := by cases p <;> rfl
@[simp] theorem State.setPort_staging (p : Port) (x : PortState) : (s.setPort p x).staging = s.staging := by cases p <;> rfl
@[simp] theorem State.setPort_rslt (p : Port) (x : PortState) : (s.setPort p x).rslt = s.rslt := by cases p <;> rfl
@[simp] theorem State.setPort_res (p : Port) (x : PortState) : (s.setPort p x).res = s.res := by cases p <;> rfl
@[simp] theorem State.setPort_view (p : Port) (x : PortState) : (s.setPort p x).view = s.view := by cases p <;> rfl
@[simp] theorem State.setPort_holds (p : Port) (x : PortState) : (s.setPort p x).holds = s.holds := by cases p <;> rfl
@[simp] theorem State.setPort_hlim (p : Port) (x : PortState) : (s.setPort p x).hlim = s.hlim := by cases p <;> rfl
@[simp] theorem State.setPort_records (p : Port) (x : PortState) : (s.setPort p x).records = s.records := by cases p <;> rfl
@[simp] theorem State.setPort_evictions (p : Port) (x : PortState) : (s.setPort p x).evictions = s.evictions := by cases p <;> rfl
@[simp] theorem State.setPort_drops (p : Port) (x : PortState) : (s.setPort p x).drops = s.drops := by cases p <;> rfl
@[simp] theorem State.setPort_shadowOverwrites (p : Port) (x : PortState) : (s.setPort p x).shadowOverwrites = s.shadowOverwrites := by cases p <;> rfl
@[simp] theorem State.setPort_queue (p : Port) (x : PortState) : (s.setPort p x).queue = s.queue := by cases p <;> rfl
@[simp] theorem State.setPort_filters (p : Port) (x : PortState) : (s.setPort p x).filters = s.filters := by cases p <;> rfl
@[simp] theorem State.setPort_defa (p : Port) (x : PortState) : (s.setPort p x).defa = s.defa := by cases p <;> rfl
@[simp] theorem State.setPort_tmo (p : Port) (x : PortState) : (s.setPort p x).tmo = s.tmo := by cases p <;> rfl
@[simp] theorem State.setPort_qgap (p : Port) (x : PortState) : (s.setPort p x).qgap = s.qgap := by cases p <;> rfl
@[simp] theorem State.setPort_silim (p : Port) (x : PortState) : (s.setPort p x).silim = s.silim := by cases p <;> rfl
@[simp] theorem State.setPort_crct (p : Port) (x : PortState) : (s.setPort p x).crct = s.crct := by cases p <;> rfl
@[simp] theorem State.setPort_crcw (p : Port) (x : PortState) : (s.setPort p x).crcw = s.crcw := by cases p <;> rfl
@[simp] theorem State.setPort_nodes (p : Port) (x : PortState) : (s.setPort p x).nodes = s.nodes := by cases p <;> rfl
@[simp] theorem State.setPort_requests (p : Port) (x : PortState) : (s.setPort p x).requests = s.requests := by cases p <;> rfl
@[simp] theorem State.setPort_completions (p : Port) (x : PortState) : (s.setPort p x).completions = s.completions := by cases p <;> rfl
@[simp] theorem State.setPort_epoch (p : Port) (x : PortState) : (s.setPort p x).epoch = s.epoch := by cases p <;> rfl
@[simp] theorem State.setPort_inh (p : Port) (x : PortState) : (s.setPort p x).inh = s.inh := by cases p <;> rfl
@[simp] theorem State.setPort_sticky (p : Port) (x : PortState) : (s.setPort p x).sticky = s.sticky := by cases p <;> rfl
@[simp] theorem State.setPort_enables (p : Port) (x : PortState) : (s.setPort p x).enables = s.enables := by cases p <;> rfl
@[simp] theorem State.setPort_host (p : Port) (x : PortState) : (s.setPort p x).host = s.host := by cases p <;> rfl
@[simp] theorem State.setPort_held (p : Port) (x : PortState) : (s.setPort p x).held = s.held := by cases p <;> rfl
@[simp] theorem State.setPort_marks (p : Port) (x : PortState) : (s.setPort p x).marks = s.marks := by cases p <;> rfl
@[simp] theorem State.setPort_choices (p : Port) (x : PortState) : (s.setPort p x).choices = s.choices := by cases p <;> rfl
@[simp] theorem State.setPort_pending (p : Port) (x : PortState) : (s.setPort p x).pending = s.pending := by cases p <;> rfl

@[simp] theorem State.setPort_A_portA (x : PortState) : (s.setPort .A x).portA = x := rfl
@[simp] theorem State.setPort_A_portB (x : PortState) : (s.setPort .A x).portB = s.portB := rfl
@[simp] theorem State.setPort_B_portA (x : PortState) : (s.setPort .B x).portA = s.portA := rfl
@[simp] theorem State.setPort_B_portB (x : PortState) : (s.setPort .B x).portB = x := rfl

/-! ### unqueue -/

@[simp] theorem State.unqueue_cmd (r : Nat) : (s.unqueue r).cmd = s.cmd := rfl
@[simp] theorem State.unqueue_args (r : Nat) : (s.unqueue r).args = s.args := rfl
@[simp] theorem State.unqueue_staging (r : Nat) : (s.unqueue r).staging = s.staging := rfl
@[simp] theorem State.unqueue_rslt (r : Nat) : (s.unqueue r).rslt = s.rslt := rfl
@[simp] theorem State.unqueue_res (r : Nat) : (s.unqueue r).res = s.res := rfl
@[simp] theorem State.unqueue_view (r : Nat) : (s.unqueue r).view = s.view := rfl
@[simp] theorem State.unqueue_holds (r : Nat) : (s.unqueue r).holds = s.holds := rfl
@[simp] theorem State.unqueue_hlim (r : Nat) : (s.unqueue r).hlim = s.hlim := rfl
@[simp] theorem State.unqueue_records (r : Nat) : (s.unqueue r).records = s.records := rfl
@[simp] theorem State.unqueue_evictions (r : Nat) : (s.unqueue r).evictions = s.evictions := rfl
@[simp] theorem State.unqueue_drops (r : Nat) : (s.unqueue r).drops = s.drops := rfl
@[simp] theorem State.unqueue_shadowOverwrites (r : Nat) : (s.unqueue r).shadowOverwrites = s.shadowOverwrites := rfl
@[simp] theorem State.unqueue_filters (r : Nat) : (s.unqueue r).filters = s.filters := rfl
@[simp] theorem State.unqueue_defa (r : Nat) : (s.unqueue r).defa = s.defa := rfl
@[simp] theorem State.unqueue_portA (r : Nat) : (s.unqueue r).portA = s.portA := rfl
@[simp] theorem State.unqueue_portB (r : Nat) : (s.unqueue r).portB = s.portB := rfl
@[simp] theorem State.unqueue_tmo (r : Nat) : (s.unqueue r).tmo = s.tmo := rfl
@[simp] theorem State.unqueue_qgap (r : Nat) : (s.unqueue r).qgap = s.qgap := rfl
@[simp] theorem State.unqueue_silim (r : Nat) : (s.unqueue r).silim = s.silim := rfl
@[simp] theorem State.unqueue_crct (r : Nat) : (s.unqueue r).crct = s.crct := rfl
@[simp] theorem State.unqueue_crcw (r : Nat) : (s.unqueue r).crcw = s.crcw := rfl
@[simp] theorem State.unqueue_nodes (r : Nat) : (s.unqueue r).nodes = s.nodes := rfl
@[simp] theorem State.unqueue_requests (r : Nat) : (s.unqueue r).requests = s.requests := rfl
@[simp] theorem State.unqueue_completions (r : Nat) : (s.unqueue r).completions = s.completions := rfl
@[simp] theorem State.unqueue_epoch (r : Nat) : (s.unqueue r).epoch = s.epoch := rfl
@[simp] theorem State.unqueue_inh (r : Nat) : (s.unqueue r).inh = s.inh := rfl
@[simp] theorem State.unqueue_sticky (r : Nat) : (s.unqueue r).sticky = s.sticky := rfl
@[simp] theorem State.unqueue_enables (r : Nat) : (s.unqueue r).enables = s.enables := rfl
@[simp] theorem State.unqueue_host (r : Nat) : (s.unqueue r).host = s.host := rfl
@[simp] theorem State.unqueue_held (r : Nat) : (s.unqueue r).held = s.held := rfl
@[simp] theorem State.unqueue_marks (r : Nat) : (s.unqueue r).marks = s.marks := rfl
@[simp] theorem State.unqueue_choices (r : Nat) : (s.unqueue r).choices = s.choices := rfl
@[simp] theorem State.unqueue_pending (r : Nat) : (s.unqueue r).pending = s.pending := rfl

@[simp] theorem State.unqueue_queue (r : Nat) : (s.unqueue r).queue = s.queue.filter fun e => e.record ≠ r := rfl

/-! ### complete -/

@[simp] theorem State.complete_cmd (q : Request) (st : Status) : (s.complete q st).cmd = s.cmd := rfl
@[simp] theorem State.complete_args (q : Request) (st : Status) : (s.complete q st).args = s.args := rfl
@[simp] theorem State.complete_staging (q : Request) (st : Status) : (s.complete q st).staging = s.staging := rfl
@[simp] theorem State.complete_rslt (q : Request) (st : Status) : (s.complete q st).rslt = s.rslt := rfl
@[simp] theorem State.complete_res (q : Request) (st : Status) : (s.complete q st).res = s.res := rfl
@[simp] theorem State.complete_view (q : Request) (st : Status) : (s.complete q st).view = s.view := rfl
@[simp] theorem State.complete_holds (q : Request) (st : Status) : (s.complete q st).holds = s.holds := rfl
@[simp] theorem State.complete_hlim (q : Request) (st : Status) : (s.complete q st).hlim = s.hlim := rfl
@[simp] theorem State.complete_records (q : Request) (st : Status) : (s.complete q st).records = s.records := rfl
@[simp] theorem State.complete_evictions (q : Request) (st : Status) : (s.complete q st).evictions = s.evictions := rfl
@[simp] theorem State.complete_drops (q : Request) (st : Status) : (s.complete q st).drops = s.drops := rfl
@[simp] theorem State.complete_shadowOverwrites (q : Request) (st : Status) : (s.complete q st).shadowOverwrites = s.shadowOverwrites := rfl
@[simp] theorem State.complete_queue (q : Request) (st : Status) : (s.complete q st).queue = s.queue := rfl
@[simp] theorem State.complete_filters (q : Request) (st : Status) : (s.complete q st).filters = s.filters := rfl
@[simp] theorem State.complete_defa (q : Request) (st : Status) : (s.complete q st).defa = s.defa := rfl
@[simp] theorem State.complete_portA (q : Request) (st : Status) : (s.complete q st).portA = s.portA := rfl
@[simp] theorem State.complete_portB (q : Request) (st : Status) : (s.complete q st).portB = s.portB := rfl
@[simp] theorem State.complete_tmo (q : Request) (st : Status) : (s.complete q st).tmo = s.tmo := rfl
@[simp] theorem State.complete_qgap (q : Request) (st : Status) : (s.complete q st).qgap = s.qgap := rfl
@[simp] theorem State.complete_silim (q : Request) (st : Status) : (s.complete q st).silim = s.silim := rfl
@[simp] theorem State.complete_crct (q : Request) (st : Status) : (s.complete q st).crct = s.crct := rfl
@[simp] theorem State.complete_crcw (q : Request) (st : Status) : (s.complete q st).crcw = s.crcw := rfl
@[simp] theorem State.complete_nodes (q : Request) (st : Status) : (s.complete q st).nodes = s.nodes := rfl
@[simp] theorem State.complete_epoch (q : Request) (st : Status) : (s.complete q st).epoch = s.epoch := rfl
@[simp] theorem State.complete_inh (q : Request) (st : Status) : (s.complete q st).inh = s.inh := rfl
@[simp] theorem State.complete_sticky (q : Request) (st : Status) : (s.complete q st).sticky = s.sticky := rfl
@[simp] theorem State.complete_enables (q : Request) (st : Status) : (s.complete q st).enables = s.enables := rfl
@[simp] theorem State.complete_host (q : Request) (st : Status) : (s.complete q st).host = s.host := rfl
@[simp] theorem State.complete_held (q : Request) (st : Status) : (s.complete q st).held = s.held := rfl
@[simp] theorem State.complete_marks (q : Request) (st : Status) : (s.complete q st).marks = s.marks := rfl
@[simp] theorem State.complete_choices (q : Request) (st : Status) : (s.complete q st).choices = s.choices := rfl
@[simp] theorem State.complete_pending (q : Request) (st : Status) : (s.complete q st).pending = s.pending := rfl

@[simp] theorem State.complete_requests (q : Request) (st : Status) :
    (s.complete q st).requests = s.requests.filter fun x => x.tag ≠ q.tag := rfl
@[simp] theorem State.complete_completions (q : Request) (st : Status) :
    (s.complete q st).completions = s.completions ++ [⟨q.tag, st, q.attempts, s.epoch16⟩] := rfl

/-! ### modRequest -/

@[simp] theorem State.modRequest_cmd (t : Octet) (f : Request → Request) : (s.modRequest t f).cmd = s.cmd := rfl
@[simp] theorem State.modRequest_args (t : Octet) (f : Request → Request) : (s.modRequest t f).args = s.args := rfl
@[simp] theorem State.modRequest_staging (t : Octet) (f : Request → Request) : (s.modRequest t f).staging = s.staging := rfl
@[simp] theorem State.modRequest_rslt (t : Octet) (f : Request → Request) : (s.modRequest t f).rslt = s.rslt := rfl
@[simp] theorem State.modRequest_res (t : Octet) (f : Request → Request) : (s.modRequest t f).res = s.res := rfl
@[simp] theorem State.modRequest_view (t : Octet) (f : Request → Request) : (s.modRequest t f).view = s.view := rfl
@[simp] theorem State.modRequest_holds (t : Octet) (f : Request → Request) : (s.modRequest t f).holds = s.holds := rfl
@[simp] theorem State.modRequest_hlim (t : Octet) (f : Request → Request) : (s.modRequest t f).hlim = s.hlim := rfl
@[simp] theorem State.modRequest_records (t : Octet) (f : Request → Request) : (s.modRequest t f).records = s.records := rfl
@[simp] theorem State.modRequest_evictions (t : Octet) (f : Request → Request) : (s.modRequest t f).evictions = s.evictions := rfl
@[simp] theorem State.modRequest_drops (t : Octet) (f : Request → Request) : (s.modRequest t f).drops = s.drops := rfl
@[simp] theorem State.modRequest_shadowOverwrites (t : Octet) (f : Request → Request) : (s.modRequest t f).shadowOverwrites = s.shadowOverwrites := rfl
@[simp] theorem State.modRequest_queue (t : Octet) (f : Request → Request) : (s.modRequest t f).queue = s.queue := rfl
@[simp] theorem State.modRequest_filters (t : Octet) (f : Request → Request) : (s.modRequest t f).filters = s.filters := rfl
@[simp] theorem State.modRequest_defa (t : Octet) (f : Request → Request) : (s.modRequest t f).defa = s.defa := rfl
@[simp] theorem State.modRequest_portA (t : Octet) (f : Request → Request) : (s.modRequest t f).portA = s.portA := rfl
@[simp] theorem State.modRequest_portB (t : Octet) (f : Request → Request) : (s.modRequest t f).portB = s.portB := rfl
@[simp] theorem State.modRequest_tmo (t : Octet) (f : Request → Request) : (s.modRequest t f).tmo = s.tmo := rfl
@[simp] theorem State.modRequest_qgap (t : Octet) (f : Request → Request) : (s.modRequest t f).qgap = s.qgap := rfl
@[simp] theorem State.modRequest_silim (t : Octet) (f : Request → Request) : (s.modRequest t f).silim = s.silim := rfl
@[simp] theorem State.modRequest_crct (t : Octet) (f : Request → Request) : (s.modRequest t f).crct = s.crct := rfl
@[simp] theorem State.modRequest_crcw (t : Octet) (f : Request → Request) : (s.modRequest t f).crcw = s.crcw := rfl
@[simp] theorem State.modRequest_nodes (t : Octet) (f : Request → Request) : (s.modRequest t f).nodes = s.nodes := rfl
@[simp] theorem State.modRequest_completions (t : Octet) (f : Request → Request) : (s.modRequest t f).completions = s.completions := rfl
@[simp] theorem State.modRequest_epoch (t : Octet) (f : Request → Request) : (s.modRequest t f).epoch = s.epoch := rfl
@[simp] theorem State.modRequest_inh (t : Octet) (f : Request → Request) : (s.modRequest t f).inh = s.inh := rfl
@[simp] theorem State.modRequest_sticky (t : Octet) (f : Request → Request) : (s.modRequest t f).sticky = s.sticky := rfl
@[simp] theorem State.modRequest_enables (t : Octet) (f : Request → Request) : (s.modRequest t f).enables = s.enables := rfl
@[simp] theorem State.modRequest_host (t : Octet) (f : Request → Request) : (s.modRequest t f).host = s.host := rfl
@[simp] theorem State.modRequest_held (t : Octet) (f : Request → Request) : (s.modRequest t f).held = s.held := rfl
@[simp] theorem State.modRequest_marks (t : Octet) (f : Request → Request) : (s.modRequest t f).marks = s.marks := rfl
@[simp] theorem State.modRequest_choices (t : Octet) (f : Request → Request) : (s.modRequest t f).choices = s.choices := rfl
@[simp] theorem State.modRequest_pending (t : Octet) (f : Request → Request) : (s.modRequest t f).pending = s.pending := rfl

@[simp] theorem State.modRequest_requests (t : Octet) (f : Request → Request) :
    (s.modRequest t f).requests = s.requests.map fun q => if q.tag = t then f q else q := rfl

/-! ### Reading a numbered part after writing one -/

@[simp] theorem State.port_setPort_same (p : Port) (x : PortState) : (s.setPort p x).port p = x := by
  cases p <;> rfl

theorem State.port_setPort (p q : Port) (x : PortState) :
    (s.setPort p x).port q = if q = p then x else s.port q := by
  cases p <;> cases q <;> rfl

@[simp] theorem State.setPort_port (p : Port) : s.setPort p (s.port p) = s := by cases p <;> rfl

@[simp] theorem State.setPort_setPort (p : Port) (x y : PortState) : (s.setPort p x).setPort p y = s.setPort p y := by
  cases p <;> rfl

theorem State.record_of_le {r : Nat} (h : 48 ≤ r) : s.record r = none := by
  simp [State.record, Vector.getElem?_eq_none h]

theorem State.record_some_lt {r : Nat} {rec : Record} (h : s.record r = some rec) : r < 48 := by
  by_contra hr
  rw [s.record_of_le (by omega)] at h
  cases h

theorem State.record_eq_getElem {r : Nat} (h : r < 48) : s.record r = s.records[r] := by
  simp [State.record, h]

theorem State.record_setRecord (r r' : Nat) (o : Option Record) :
    (s.setRecord r o).record r' = if r' = r then (if r < 48 then o else none) else s.record r' := by
  by_cases h : r' < 48
  · by_cases e : r' = r
    · subst e; simp [State.record, h]
    · have e' : ¬ r = r' := fun x => e x.symm
      simp [State.record, h, e, e']
  · rw [State.record_of_le _ (by omega), State.record_of_le _ (by omega)]
    split
    · split <;> [omega; rfl]
    · rfl

theorem State.record_setRecord_same {r : Nat} (o : Option Record) (h : r < 48) : (s.setRecord r o).record r = o := by
  simp [State.record_setRecord, h]

theorem State.record_setRecord_ne {r r' : Nat} (o : Option Record) (h : r' ≠ r) :
    (s.setRecord r o).record r' = s.record r' := by simp [State.record_setRecord, h]

theorem State.node_of_le {e : Nat} (h : 32 ≤ e) : s.node e = NodeEntry.vacant := by
  simp [State.node, Vector.getElem?_eq_none h]

theorem State.node_setNode (e e' : Nat) (n : NodeEntry) :
    (s.setNode e n).node e' = if e' = e then (if e < 32 then n else NodeEntry.vacant) else s.node e' := by
  by_cases h : e' < 32
  · by_cases x : e' = e
    · subst x; simp [State.node, h]
    · have x' : ¬ e = e' := fun y => x y.symm
      simp [State.node, h, x, x']
  · rw [State.node_of_le _ (by omega), State.node_of_le _ (by omega)]
    split
    · split <;> [omega; rfl]
    · rfl

theorem State.node_setNode_same {e : Nat} (n : NodeEntry) (h : e < 32) : (s.setNode e n).node e = n := by
  simp [State.node_setNode, h]

theorem State.node_setNode_ne {e e' : Nat} (n : NodeEntry) (h : e' ≠ e) : (s.setNode e n).node e' = s.node e' := by
  simp [State.node_setNode, h]

/-- Two states with the same records have the same record at every index. -/
theorem State.record_congr {s t : State} (h : s.records = t.records) (r : Nat) : s.record r = t.record r := by
  simp [State.record, h]

/-- Two states with the same nodes have the same node entry at every index. -/
theorem State.node_congr {s t : State} (h : s.nodes = t.nodes) (e : Nat) : s.node e = t.node e := by
  simp [State.node, h]

@[simp] theorem State.record_setPort (r : Nat) (p : Port) (x : PortState) :
    (s.setPort p x).record r = s.record r := State.record_congr (by simp) r

@[simp] theorem State.record_raise (r : Nat) (e : BitVec 9) : (s.raise e).record r = s.record r := rfl

@[simp] theorem State.node_raise (e : Nat) (b : BitVec 9) : (s.raise b).node e = s.node e := rfl

@[simp] theorem State.node_setPort (e : Nat) (p : Port) (x : PortState) : (s.setPort p x).node e = s.node e :=
  State.node_congr (by simp) e

@[simp] theorem State.record_setNode (r e : Nat) (n : NodeEntry) : (s.setNode e n).record r = s.record r := rfl

@[simp] theorem State.node_setRecord (r e : Nat) (o : Option Record) : (s.setRecord r o).node e = s.node e := rfl

end Sys2Proof.Machine
end

