-- ==== Sys2Proof/Laws/Closure.lean ====
section
/-! SUPPORT. Everything a step can do to the records, the change queue, the hold list, the pool, the inhibit unit,
the host port and the queue of commands, said once: a property of states that is closed under the primitive changes
listed in `Calm` (what the ports, the arbiters and the node table do), in `Kept` (what else a command or a mark does)
and in `Closed` (a hard reset, and a command leaving the queue) is kept by every step. An invariant is proved by
checking the primitive changes alone. -/

namespace Sys2Proof.Machine

/-- Two states that agree on records, change queue, hold list, pool, inhibit unit, host port and commands waiting. -/
structure SameCore (s t : State) : Prop where
  records : t.records = s.records
  queue : t.queue = s.queue
  holds : t.holds = s.holds
  requests : t.requests = s.requests
  completions : t.completions = s.completions
  inh : t.inh = s.inh
  host : t.host = s.host
  held : t.held = s.held
  pending : t.pending = s.pending

/-- A property of states closed under what ports, arbiters, node table and conditions do. -/
structure Calm (P : State → Prop) : Prop where
  rest : ∀ {s t : State}, P s → SameCore s t → P t
  completeAll : ∀ {s : State} (l : List Request) (st : Status), P s →
    (∀ tag, (l.map Request.tag).count tag ≤ (s.requests.map Request.tag).count tag) →
    P (l.foldl (fun s q => s.complete q st) s)
  mapRequests : ∀ {s : State} (f : Request → Request), P s → (∀ q, (f q).tag = q.tag) →
    P { s with requests := s.requests.map f }
  record : ∀ {s : State} {r : Nat} {rec rec' : Record}, P s → s.record r = some rec → rec'.entry = rec.entry →
    rec'.itemType = rec.itemType → rec'.queued = rec.queued → rec'.held = rec.held →
    (rec'.shadow.isSome = true → rec.shadow.isSome = true ∨ rec.held = true) → P (s.setRecord r (some rec'))
  notify : ∀ {s : State} (r : Nat) (causes : BitVec 5), P s → P (s.notify r causes)
  condition : ∀ {s : State} (c : Condition) (on : Bool), P s → P (s.setCondition c on)

/-- A property kept by `f` is kept by a fold of `f`. -/
theorem foldl_keeps {P : State → Prop} {α : Type} {f : State → α → State} (hf : ∀ s a, P s → P (f s a))
    (l : List α) {s : State} (h : P s) : P (l.foldl f s) := by
  induction l generalizing s with
  | nil => exact h
  | cons a l ih => exact ih (hf _ _ h)

namespace Calm

variable {P : State → Prop} (hP : Calm P) {s : State}
include hP

theorem port (p : Port) (x : PortState) (h : P s) : P (s.setPort p x) :=
  hP.rest h (by constructor <;> simp)

theorem modPort (p : Port) (f : PortState → PortState) (h : P s) : P (s.modPort p f) := hP.port p _ h

theorem modCounters (p : Port) (f : PortCounters → PortCounters) (h : P s) : P (s.modCounters p f) :=
  hP.modPort p _ h

theorem node (e : Nat) (n : NodeEntry) (h : P s) : P (s.setNode e n) := hP.rest h (by constructor <;> rfl)

theorem modNode (e : Nat) (f : NodeEntry → NodeEntry) (h : P s) : P (s.modNode e f) := hP.node e _ h

theorem raise (e : BitVec 9) (h : P s) : P (s.raise e) := hP.rest h (by constructor <;> rfl)

theorem enterQuiet (p : Port) (a : Option Nat) (h : P s) : P (s.enterQuiet p a) := hP.modPort p _ h

theorem dropTransaction (p : Port) (h : P s) : P (s.dropTransaction p) := hP.modPort p _ h

theorem taken (c : Octet) (h : P s) : P (s.taken c) := hP.rest h (by constructor <;> rfl)

theorem result (c : ResultCode) (os : List Octet) (h : P s) : P (s.result c os) :=
  hP.rest h (by constructor <;> rfl)

theorem complete {q : Request} (st : Status) (hq : q ∈ s.requests) (h : P s) : P (s.complete q st) := by
  refine hP.completeAll [q] st h fun tag => ?_
  by_cases ht : q.tag = tag
  · subst ht
    simpa using ⟨q, hq, rfl⟩
  · simp [ht]

omit hP in
theorem requestOf_mem {tag : Octet} {q : Request} (h : s.requestOf tag = some q) : q ∈ s.requests :=
  List.mem_of_find?_eq_some h

omit hP in
theorem requestOf_tag {tag : Octet} {q : Request} (h : s.requestOf tag = some q) : q.tag = tag := by
  simpa using List.find?_some h

theorem modRequest (tag : Octet) (f : Request → Request) (hf : ∀ q, (f q).tag = q.tag) (h : P s) :
    P (s.modRequest tag f) := by
  refine hP.mapRequests _ h fun q => ?_
  split <;> simp [hf]

/-! ### Node notices and misses -/

theorem orphanRecord (r : Nat) (h : P s) : P (s.orphanRecord r) := by
  unfold State.orphanRecord
  split
  · exact h
  · rename_i rec hr
    split
    · exact h
    · exact hP.notify _ _ (hP.record h hr rfl rfl rfl rfl fun x => .inl x)

theorem nodeNotice (e : Nat) (h : P s) : P (s.nodeNotice e) :=
  hP.condition _ _ (foldl_keeps (fun _ r h => hP.orphanRecord r h) _ h)

theorem nodeChanged (e : Nat) (h : P s) : P (s.nodeChanged e) := hP.raise _ (hP.modNode _ _ h)

theorem nodeMiss (e : Nat) (h : P s) : P (s.nodeMiss e) := by
  unfold State.nodeMiss
  dsimp only
  split
  · exact hP.node _ _ h
  · split
    · split
      · exact hP.condition _ _ (hP.nodeNotice _ (hP.nodeChanged _ (hP.node _ _ h)))
      · exact hP.nodeNotice _ (hP.nodeChanged _ (hP.node _ _ h))
    · exact hP.nodeChanged _ (hP.node _ _ h)

theorem pollFailed (e : Nat) (b : Bool) (h : P s) : P (s.pollFailed e b) := by
  unfold State.pollFailed
  split
  · exact hP.modNode _ _ h
  · exact hP.nodeMiss _ h

theorem reportFailed (p : Port) (t : Transaction) (h : P s) : P (s.reportFailed p t) := by
  unfold State.reportFailed
  have h' := hP.dropTransaction p h
  dsimp only
  split
  · split
    · split
      · exact h'
      · exact hP.pollFailed _ _ h'
    · exact h'
  · split
    · rename_i q hq
      exact hP.complete _ (requestOf_mem hq) h'
    · exact h'

/-! ### The arbiter -/

theorem startAttempt (p : Port) (t : Transaction) (h : P s) : P (s.startAttempt p t) := by
  unfold State.startAttempt
  dsimp only
  split
  · exact hP.modPort _ _ h
  · exact hP.modPort _ _ (hP.modRequest _ _ (fun _ => rfl) h)

theorem grantPoll (p : Port) (e : Nat) (h : P s) : P (s.grantPoll p e) := by
  unfold State.grantPoll
  exact hP.startAttempt _ _ (hP.modPort _ _ (hP.modNode _ _ h))

theorem grantRequest (p : Port) (q : Request) (h : P s) : P (s.grantRequest p q) := by
  unfold State.grantRequest
  exact hP.startAttempt _ _ (hP.modPort _ _ h)

omit hP in
/-- A search for the request candidate completes a first part of the list with NODE_ABSENT (R98). -/
theorem requestCandidate_eq (p : Port) (l : List Request) (s : State) :
    ∃ k, (s.requestCandidate p l).1 = (l.take k).foldl (fun s q => s.complete q .nodeAbsent) s := by
  induction l generalizing s with
  | nil => exact ⟨0, rfl⟩
  | cons q l ih =>
    unfold State.requestCandidate
    split
    · exact ⟨0, rfl⟩
    · split
      · exact ⟨0, rfl⟩
      · obtain ⟨k, hk⟩ := ih (s.complete q .nodeAbsent)
        exact ⟨k + 1, by simpa using hk⟩

omit hP in
theorem count_le_of_sublist {l m : List Request} (h : l.Sublist m) (tag : Octet) :
    (l.map Request.tag).count tag ≤ (m.map Request.tag).count tag :=
  (h.map _).count_le _

theorem requestCandidate (p : Port) (l : List Request) (hl : l.Sublist s.requests) (h : P s) :
    P (s.requestCandidate p l).1 := by
  obtain ⟨k, hk⟩ := requestCandidate_eq p l s
  rw [hk]
  exact hP.completeAll _ _ h (count_le_of_sublist ((List.take_sublist k l).trans hl))

theorem grantFirst (p : Port) (h : P s) : P (s.grantFirst p) := by
  unfold State.grantFirst
  have h' := hP.requestCandidate p (s.waitingOf p) List.filter_sublist h
  dsimp only
  split
  · split
    · exact hP.grantRequest _ _ h'
    · exact hP.grantPoll _ _ h'
  · exact hP.grantPoll _ _ h'
  · exact hP.grantRequest _ _ h'
  · exact h'

theorem evaluate (p : Port) (h : P s) : P (s.evaluate p) := by
  unfold State.evaluate
  split
  · split
    · exact hP.grantFirst _ h
    · split
      · split
        · exact hP.grantFirst _ (hP.reportFailed _ _ h)
        · exact hP.startAttempt _ _ h
      · exact h
  · exact h

theorem evaluatePorts (ps : List Port) (h : P s) : P (s.evaluatePorts ps) := by
  unfold State.evaluatePorts
  split
  · have h' : P { s with choices := s.choices + 1 } := hP.rest h (by constructor <;> rfl)
    dsimp only
    split <;> exact hP.evaluate _ (hP.evaluate _ h')
  · exact foldl_keeps (fun _ p h => hP.evaluate p h) _ h

theorem evaluateGated (h : P s) : P s.evaluateGated := hP.evaluatePorts _ h

theorem afterInhibit {t : State} (h : P t) : P (afterInhibit s t) := by
  unfold Machine.afterInhibit
  split
  · exact hP.evaluateGated h
  · exact h

theorem report (c : Condition) (on : Bool) (h : P s) : P (s.report c on) := hP.afterInhibit (hP.condition _ _ h)

theorem reportDataStale (h : P s) : P s.reportDataStale := hP.report _ _ h

theorem reportNodeLost (h : P s) : P s.reportNodeLost := hP.report _ _ h

theorem fallDue (e : Nat) (h : P s) : P (s.fallDue e) := by
  unfold State.fallDue
  dsimp only
  split
  · exact hP.raise _ (hP.node _ _ h)
  · exact hP.evaluate _ (hP.modPort _ _ (hP.node _ _ h))

/-! ### The line, but for a DATA reply -/

theorem hear (p : Port) (h : P s) : P (s.hear p) := by
  unfold State.hear
  dsimp only
  split <;> split
  · exact hP.report _ _ (hP.raise _ (hP.port _ _ h))
  · exact hP.report _ _ (hP.port _ _ h)
  · exact hP.raise _ (hP.port _ _ h)
  · exact hP.port _ _ h

theorem silenceUpdate (p : Port) (h : P s) : P (s.silenceUpdate p) := by
  unfold State.silenceUpdate
  dsimp only
  split
  · exact h
  · split
    · exact hP.condition _ _ (hP.raise _ (hP.port _ _ h))
    · exact hP.port _ _ h

theorem failAttempt (p : Port) (t : Transaction) (h : P s) : P (s.failAttempt p t) := by
  unfold State.failAttempt
  have h' := hP.silenceUpdate p h
  dsimp only
  split
  · exact hP.enterQuiet _ _ (hP.modPort _ _ h')
  · exact hP.enterQuiet _ _ (hP.reportFailed _ _ h')

theorem requestReplied (p : Port) (t : Transaction) (tag : Octet) (st : Status) (h : P s) :
    P (s.requestReplied p t tag st) := by
  unfold State.requestReplied
  have h' := hP.dropTransaction p (hP.silenceUpdate p h)
  dsimp only
  split
  · rename_i q hq
    exact hP.enterQuiet _ _ (hP.complete _ (requestOf_mem hq) h')
  · exact hP.enterQuiet _ _ h'

theorem formatError (p : Port) (h : P s) : P (s.formatError p) := hP.raise _ (hP.modCounters _ _ h)

theorem strayFrame (p : Port) (h : P s) : P (s.strayFrame p) := hP.modCounters _ _ h

theorem mismatch (p : Port) (t : Transaction) (h : P s) : P (s.mismatch p t) :=
  hP.failAttempt _ _ (hP.formatError _ h)

theorem lateNotice (p : Port) (a : Nat) (h : P s) : P (s.lateNotice p a) := by
  unfold State.lateNotice
  split
  · exact hP.modNode _ _ h
  · exact h

theorem frameQuiet (p : Port) (a : Option Nat) (f : RxFrame) (h : P s) : P (s.frameQuiet p a f) := by
  unfold State.frameQuiet
  split
  · exact hP.lateNotice _ _ (hP.modCounters _ _ h)
  · exact hP.strayFrame _ h

theorem crcError (p : Port) (h : P s) : P (s.crcError p) := by
  unfold State.crcError
  have h' := hP.modPort p (fun ps => { ps with windowCrc := satInc Config.count8Max ps.windowCrc })
    (hP.modCounters p (fun c => { c with crcErrors := satInc Config.count16Max c.crcErrors }) h)
  dsimp only
  split
  · exact hP.raise _ (hP.condition _ _ (hP.port _ _ h'))
  · exact h'

theorem corruptNotice (p : Port) (h : P s) : P (s.corruptNotice p) := by
  unfold State.corruptNotice
  split
  · exact hP.failAttempt _ _ h
  · exact h

theorem transmitted (p : Port) (h : P s) : P (s.transmitted p) := by
  unfold State.transmitted
  split
  · split
    · dsimp only
      have h' := hP.dropTransaction p h
      split
      · rename_i q hq
        exact hP.enterQuiet _ _ (hP.complete _ (requestOf_mem hq) h')
      · exact hP.enterQuiet _ _ h'
    · exact hP.modPort _ _ h
  · exact h

theorem timedOut (p : Port) (h : P s) : P (s.timedOut p) := by
  unfold State.timedOut
  split
  · exact hP.failAttempt _ _ (hP.modCounters _ _ h)
  · exact h

theorem quietEnded (p : Port) (h : P s) : P (s.quietEnded p) := by
  unfold State.quietEnded
  split
  · exact hP.evaluate _ (hP.modPort _ _ h)
  all_goals exact h

/-! ### Marks at the node table, the pool and the CRC-burst detectors -/

theorem countEntry (e : Nat) (h : P s) : P (s.countEntry e) := by
  unfold State.countEntry
  dsimp only
  split
  · split
    · exact hP.fallDue _ h
    · exact hP.node _ _ h
  · exact h

theorem markNodeTable (h : P s) : P s.markNodeTable := foldl_keeps (fun _ e h => hP.countEntry e h) _ h

omit hP in
theorem counted_tag (q : Request) : q.counted.tag = q.tag := by
  unfold Request.counted
  split <;> rfl

theorem markRequestPool (h : P s) : P s.markRequestPool := by
  unfold State.markRequestPool
  dsimp only
  refine hP.evaluatePorts _ (hP.completeAll _ _ (hP.mapRequests _ h counted_tag) fun tag => ?_)
  have : (s.requests.map Request.counted).map Request.tag = s.requests.map Request.tag := by
    simp [counted_tag, Function.comp_def]
  simp only [this]
  exact count_le_of_sublist List.filter_sublist tag

theorem markCrcWindow (p : Port) (h : P s) : P (s.markCrcWindow p) := by
  unfold State.markCrcWindow
  dsimp only
  split
  · split <;> exact hP.port _ _ h
  · exact h

/-! ### Port commands -/

theorem endCycle (t : Option Transaction) (h : P s) : P (s.endCycle t) := by
  unfold State.endCycle
  split
  · split
    · split
      · exact h
      · exact hP.modNode _ _ h
    · exact h
  · exact h

theorem flushRequests (p : Port) (h : P s) : P (s.flushRequests p) := by
  unfold State.flushRequests State.waitingOf
  refine hP.completeAll _ _ h fun tag => ?_
  have key : ∀ l : List Request,
      (((l.filter fun q => q.port = p && q.state = .inFlight) ++
        l.filter fun q => q.port = p && q.state = .waiting).map Request.tag).count tag ≤
      (l.map Request.tag).count tag := by
    intro l
    induction l with
    | nil => simp
    | cons q l ih =>
      simp only [List.map_append, List.count_append] at ih ⊢
      by_cases hp : q.port = p <;> cases hs : q.state <;>
        simp [hp, hs, List.count_cons] <;> omega
  exact key _

theorem probeEntry (e : Nat) (h : P s) : P (s.probeEntry e) := by
  unfold State.probeEntry
  dsimp only
  split
  · exact hP.nodeNotice _ (hP.node _ _ h)
  · exact hP.nodeNotice _ (hP.nodeChanged _ (hP.node _ _ h))

theorem stopPort (p : Port) (l : LinkState) (h : P s) : P (s.stopPort p l) := by
  unfold State.stopPort
  have h' := hP.port p ((s.port p).stop l s.qgap) h
  dsimp only
  apply hP.reportNodeLost
  refine foldl_keeps (fun _ e h => hP.probeEntry e h) _ (hP.flushRequests _ (hP.endCycle _ ?_))
  split <;> split
  · exact hP.report _ _ h'
  · exact hP.report _ _ (hP.raise _ h')
  · exact h'
  · exact hP.raise _ h'

theorem resetPort (p : Port) (h : P s) : P (s.resetPort p) := by
  unfold State.resetPort
  exact foldl_keeps (fun _ e h => hP.fallDue e h) _ (hP.modPort _ _ (hP.stopPort _ _ h))

theorem enablePort (p : Port) (h : P s) : P (s.enablePort p) := by
  unfold State.enablePort
  exact foldl_keeps (fun _ e h => hP.fallDue e h) _ (hP.raise _ (hP.modPort _ _ h))

theorem disableNode (e : Nat) (h : P s) : P (s.disableNode e) := by
  unfold State.disableNode
  dsimp only
  split
  · exact hP.reportNodeLost (hP.nodeNotice _ (hP.node _ _ (hP.modPort _ _ h)))
  · exact hP.nodeNotice _ (hP.node _ _ (hP.modPort _ _ h))

end Calm

end Sys2Proof.Machine
end

