-- ==== Sys2Proof/Laws/Ops.lean ====
section
/-! SUPPORT. What the shared operations of Ops.lean and Flags.lean can do, one lemma for each. -/

namespace Sys2Proof.Machine

/-! ### Joins -/

/-- All that a notice can do: nothing, a merge, or a new entry at the tail (R9, R23, R31, R32). -/
theorem State.notify_cases (s : State) (r : Nat) (c : BitVec 5) :
    s.notify r c = s ∨
    ∃ rec, s.record r = some rec ∧ rec.policy ≠ .silent ∧ c ≠ 0 ∧
      ((rec.queued = true ∧ s.notify r c = { s with queue := mergeCauses r c s.queue }) ∨
       (rec.queued = false ∧
        s.notify r c = { s with queue := s.queue ++ [⟨r, c⟩] : State }.setRecord r (some { rec with queued := true }))) := by
  unfold State.notify
  cases hr : s.record r with
  | none => exact .inl rfl
  | some rec =>
    by_cases hc : rec.policy = .silent ∨ c = 0
    · exact .inl (if_pos hc)
    · obtain ⟨h1, h2⟩ := not_or.mp hc
      refine .inr ⟨rec, rfl, h1, h2, ?_⟩
      simp only [if_neg hc, State.join, hr]
      cases hq : rec.queued <;> simp

/-- A merge leaves the records that the entries name, and their order. -/
@[simp] theorem map_record_mergeCauses (r : Nat) (c : BitVec 5) (q : List ChangeEntry) :
    (mergeCauses r c q).map ChangeEntry.record = q.map ChangeEntry.record := by
  simp only [mergeCauses, List.map_map]
  congr 1
  funext e
  simp only [Function.comp]
  split <;> rfl

/-- What a notice leaves of a record: everything but its queued field. -/
theorem State.record_notify (s : State) (r : Nat) (c : BitVec 5) (r' : Nat) :
    (s.notify r c).record r' = s.record r' ∨
    ∃ rec, s.record r' = some rec ∧ (s.notify r c).record r' = some { rec with queued := true } := by
  rcases s.notify_cases r c with h | ⟨rec, hr, -, -, ⟨-, h⟩ | ⟨-, h⟩⟩
  · exact .inl (by rw [h])
  · exact .inl (by rw [h]; rfl)
  · rw [h, State.record_setRecord]
    by_cases e : r' = r
    · subst e
      exact .inr ⟨rec, hr, by simp [State.record_some_lt _ hr]⟩
    · exact .inl (by simp only [e, if_false]; rfl)

/-- A notice changes the records and the change queue alone. -/
theorem State.notify_eq (s : State) (r : Nat) (c : BitVec 5) :
    ∃ rs q, s.notify r c = { s with records := rs, queue := q } := by
  rcases s.notify_cases r c with h | ⟨rec, hr, -, -, ⟨-, h⟩ | ⟨-, h⟩⟩
  · exact ⟨_, _, h⟩
  · exact ⟨_, _, h⟩
  · exact ⟨_, _, h⟩

/-! ### Conditions -/

/-- Settling changes the inhibit unit and the sticky flags alone. -/
theorem State.inhSettle_eq (s : State) (n : Octet) : ∃ u k, s.inhSettle n = { s with inh := u, sticky := k } := by
  unfold State.inhSettle State.inhAssert State.releaseDecision State.inhRelease
  split
  · split <;> exact ⟨_, _, rfl⟩
  · split
    · split
      · exact ⟨_, _, rfl⟩
      · split <;> exact ⟨_, _, rfl⟩
    · exact ⟨s.inh, s.sticky, rfl⟩

/-- A report to the inhibit unit changes the unit and the sticky flags alone. -/
theorem State.setCondition_eq (s : State) (c : Condition) (on : Bool) :
    ∃ u k, s.setCondition c on = { s with inh := u, sticky := k } := by
  unfold State.setCondition
  split
  · exact ⟨s.inh, s.sticky, rfl⟩
  · split
    all_goals
      obtain ⟨u, k, h⟩ := State.inhSettle_eq _ _
      exact ⟨u, k, h⟩

/-- A report that gives the level a condition already has changes nothing (R165). -/
theorem State.setCondition_same (s : State) (c : Condition) : s.setCondition c (s.inh.isActive c) = s := by
  simp [State.setCondition]

/-! ### Completions -/

/-- Requests that end together: their tags leave the pool, and their completions join the ring in order. -/
theorem foldl_complete (st : Status) (l : List Request) (s : State) :
    l.foldl (fun s q => s.complete q st) s =
      { s with
        requests := s.requests.filter fun x => decide (x.tag ∉ l.map Request.tag)
        completions := s.completions ++ l.map fun q => ⟨q.tag, st, q.attempts, s.epoch16⟩ } := by
  induction l generalizing s with
  | nil => simp
  | cons q l ih =>
    rw [List.foldl_cons, ih]
    have hr : (s.complete q st).requests.filter (fun x => decide (x.tag ∉ l.map Request.tag)) =
        s.requests.filter fun x => decide (x.tag ∉ (q :: l).map Request.tag) := by
      rw [State.complete_requests, List.filter_filter]
      refine List.filter_congr fun x _ => ?_
      by_cases h : x.tag = q.tag <;> simp [h]
    rw [hr]
    simp only [State.complete, State.epoch16, List.map_cons, List.append_assoc, List.singleton_append]

/-! ### Freeing -/

/-- Freeing several records (R18, R22). -/
theorem record_foldl_free (l : List Nat) (s : State) (r : Nat) :
    (l.foldl State.freeRecord s).record r = if r ∈ l then none else s.record r := by
  induction l generalizing s with
  | nil => simp
  | cons a l ih =>
    rw [List.foldl_cons, ih]
    have : (s.freeRecord a).record r = if r = a then none else s.record r := by
      unfold State.freeRecord
      rw [State.record_setRecord]
      split <;> simp_all [State.record]
    by_cases h : r ∈ l
    · simp [h]
    · simp [h, this]

end Sys2Proof.Machine
end

