-- ==== Sys2Proof/Laws/Induction.lean ====
section
/-! SUPPORT. The induction over a step: a property closed under the primitive changes is kept by every command
and by the passing of time. -/

namespace Sys2Proof.Machine

/-- A property of states closed under every primitive change that a command can make, but for HARD_RESET. -/
structure Kept (P : State → Prop) : Prop extends Calm P where
  allocate : ∀ {s : State} {r : Nat} {rec : Record}, P s → s.record r = none →
    s.findRecord rec.entry rec.itemType = none → rec.queued = false → rec.held = false → rec.shadow = none →
    P (s.setRecord r (some rec))
  reuse : ∀ {s : State} {r : Nat} {old rec : Record}, P s → s.record r = some old → old.held = false →
    s.findRecord rec.entry rec.itemType = none → rec.queued = false → rec.held = false → rec.shadow = none →
    P ((s.unqueue r).setRecord r (some rec))
  free : ∀ {s : State} {r : Nat}, P s → (∀ rec, s.record r = some rec → rec.held = false) → P (s.freeRecord r)
  pop : ∀ {s : State} {e : ChangeEntry} {rest : List ChangeEntry}, P s → s.queue = e :: rest →
    P ({ s with queue := rest : State }.clearQueued e.record)
  hold : ∀ {s : State} {r : Nat} {rec : Record}, P s → s.record r = some rec → rec.held = false →
    s.holds.length < 4 → P (s.takeHold r)
  unhold : ∀ {s : State} {r : Nat} {rec rec' : Record}, P s → s.record r = some rec → rec'.entry = rec.entry →
    rec'.itemType = rec.itemType → rec'.queued = rec.queued → rec'.held = false → rec'.shadow = none →
    P ({ s with holds := s.holds.filter fun h => h.record ≠ r : State }.setRecord r (some rec'))
  dropHold : ∀ {s : State} {r : Nat}, P s → s.record r = none →
    P { s with holds := s.holds.filter fun h => h.record ≠ r }
  ageHolds : ∀ {s : State}, P s → P { s with holds := s.holds.map Hold.aged }
  ageRecords : ∀ {s : State}, P s → P s.ageRecords
  submit : ∀ {s : State} {q : Request}, P s → s.tagInUse q.tag = false → s.slotsUsed < 16 →
    P { s with requests := s.requests ++ [q] }
  popCompletion : ∀ {s : State} {c : Completion} {rest : List Completion}, P s → s.completions = c :: rest →
    P { s with completions := rest }
  clearConditions : ∀ {s : State} (set : Octet), P s →
    P ({ s with inh := { s.inh with active := s.inh.active &&& ~~~set } : State }.inhSettle 0)
  mask : ∀ {s : State} (v : Octet), P s →
    P ({ s with inh := { s.inh with mask := v } : State }.inhSettle (s.inh.active &&& v &&& ~~~s.inh.mask))
  settings : ∀ {s : State} (m : ReleaseMode) (d : Octet), P s → P { s with inh := { s.inh with mode := m, delay := d } }
  release : ∀ {s : State}, P s → s.inh.state ≠ .asserted → P s.inhRelease
  countdown : ∀ {s : State} {n : Nat}, P s → s.inh.state = .releasing n → 1 < n →
    P { s with inh := { s.inh with state := .releasing (n - 1) } }
  softReset : ∀ {s : State}, P s → P (s.softResetBlocks.inhSettle 0)

/-- A property of states closed under every primitive change that a step can make. -/
structure Closed (P : State → Prop) : Prop extends Kept P where
  hardReset : ∀ {s : State}, P s →
    P { State.reset with host := s.host.abandoned, pending := s.pending, choices := s.choices }
  leave : ∀ {s : State} {c : Instr} {rest : List Instr}, P s → s.pending = c :: rest → P { s with pending := rest }

/-- A property of both branches is a property of the choice. -/
theorem ite_keeps {P : State → Prop} {c : Prop} [Decidable c] {x y : State} (hx : P x) (hy : P y) :
    P (if c then x else y) := by
  split
  · exact hx
  · exact hy

/-- None of the records is held. -/
def NoneHeld (l : List Nat) (s : State) : Prop := ∀ r ∈ l, ∀ rec, s.record r = some rec → rec.held = false

/-- What is not held stays so through everything that ports, arbiters, node table and conditions do. -/
theorem noneHeld_calm (l : List Nat) : Calm (NoneHeld l) where
  rest h hc r hr rec hrec := h r hr rec (by rw [← hrec]; exact (State.record_congr hc.records r).symm)
  completeAll m st h _ r hr rec hrec := by
    rw [foldl_complete] at hrec
    exact h r hr rec hrec
  mapRequests _ h _ r hr rec hrec := h r hr rec hrec
  record := by
    intro s r rec rec' h hrec _ _ _ hheld _ r' hr' rec'' hrec''
    rw [State.record_setRecord] at hrec''
    split at hrec''
    · rename_i e
      subst e
      rw [if_pos (State.record_some_lt _ hrec)] at hrec''
      cases hrec''
      rw [hheld]
      exact h _ hr' _ hrec
    · exact h _ hr' _ hrec''
  notify := by
    intro s r c h r' hr' rec hrec
    rcases s.record_notify r c r' with e | ⟨rec0, h0, e⟩
    · exact h _ hr' _ (by rw [← e]; exact hrec)
    · rw [e] at hrec
      cases hrec
      exact h _ hr' rec0 h0
  condition := by
    intro s c on h r hr rec hrec
    obtain ⟨u, k, e⟩ := s.setCondition_eq c on
    rw [e] at hrec
    exact h r hr rec hrec

namespace Kept

variable {P : State → Prop} (hP : Kept P) {s : State}
include hP

/-! ### Items of a DATA frame -/

theorem dropItem (h : P s) : P s.dropItem :=
  hP.condition _ _ (hP.raise _ (hP.rest h (by constructor <;> rfl)))

theorem evict {r : Nat} {rec old : Record} (hr : s.record r = some old) (hheld : old.held = false)
    (hk : s.findRecord rec.entry rec.itemType = none) (hq : rec.queued = false) (hh : rec.held = false)
    (hs : rec.shadow = none) (h : P s) : P (s.evict r rec) := by
  unfold State.evict
  have h' : P ({ s.unqueue r with evictions := satInc Config.count16Max s.evictions : State }.setRecord r (some rec)) :=
    hP.rest (hP.reuse h hr hheld hk hq hh hs) (by constructor <;> rfl)
  dsimp only
  split
  · exact hP.reportDataStale (hP.notify _ _ h')
  · exact hP.notify _ _ h'

omit hP in
theorem freeIndex_free {r : Nat} (h : s.freeIndex = some r) : s.record r = none := by
  simpa using List.find?_some h

omit hP in
/-- A victim is an in-use record that passes the tests of R6. -/
theorem victim_evictable {r : Nat} (h : s.victim = some r) : ∃ rec, s.record r = some rec ∧ rec.evictable = true := by
  have key : ∀ (l : List Nat) (best : Option (Nat × Nat)),
      (∀ b, best = some b → ∃ rec, s.record b.1 = some rec ∧ rec.evictable = true) →
      ∀ b, l.foldl (betterVictim s) best = some b → ∃ rec, s.record b.1 = some rec ∧ rec.evictable = true := by
    intro l
    induction l with
    | nil => exact fun best hb => hb
    | cons a l ih =>
      intro best hb
      refine ih _ fun b hb' => ?_
      unfold betterVictim at hb'
      split at hb'
      · exact hb _ hb'
      · rename_i rec hrec
        split at hb'
        · rename_i hev
          split at hb'
          · cases hb'; exact ⟨rec, hrec, hev⟩
          · split at hb'
            · cases hb'; exact ⟨rec, hrec, hev⟩
            · cases hb'; exact hb _ rfl
        · exact hb _ hb'
  unfold State.victim at h
  cases hv : recordIndices.foldl (betterVictim s) none with
  | none => simp [hv] at h
  | some b =>
    obtain ⟨rec, h1, h2⟩ := key _ none (by simp) b hv
    simp only [hv, Option.map_some, Option.some.injEq] at h
    exact ⟨rec, by rw [← h]; exact h1, h2⟩

theorem allocateRecord {rec : Record} (hk : s.findRecord rec.entry rec.itemType = none) (hq : rec.queued = false)
    (hh : rec.held = false) (hs : rec.shadow = none) (h : P s) : P (s.allocate rec) := by
  unfold State.allocate
  split
  · rename_i r hr
    exact hP.notify _ _ (hP.allocate h (freeIndex_free hr) hk hq hh hs)
  · split
    · rename_i r hr
      obtain ⟨old, h1, h2⟩ := victim_evictable hr
      refine hP.evict h1 ?_ hk hq hh hs h
      simp only [Record.evictable, Bool.and_eq_true, Bool.not_eq_true'] at h2
      exact h2.1.2
    · exact hP.dropItem h

omit hP in
theorem takePayload_keeps (rec : Record) (p : List Octet) :
    (rec.takePayload p).1.entry = rec.entry ∧ (rec.takePayload p).1.itemType = rec.itemType ∧
    (rec.takePayload p).1.queued = rec.queued ∧ (rec.takePayload p).1.held = rec.held ∧
    (rec.takePayload p).1.shadow = rec.shadow := by
  unfold Record.takePayload
  split
  · split <;> exact ⟨rfl, rfl, rfl, rfl, rfl⟩
  · exact ⟨rfl, rfl, rfl, rfl, rfl⟩

theorem updateRecord {r : Nat} {rec : Record} (hr : s.record r = some rec) (item : Item) (seq : Octet)
    (a : ItemAttributes) (h : P s) : P (s.updateRecord r rec item seq a) := by
  unfold State.updateRecord
  obtain ⟨h1, h2, h3, h4, h5⟩ := takePayload_keeps { rec.attributed a with sequence := seq } item.payload
  have h' := hP.notify r (rec.revival ||| ({ rec.attributed a with sequence := seq : Record }.takePayload item.payload).2)
    (hP.record h hr h1 h2 h3 h4 (by rw [h5]; exact fun x => .inl x))
  dsimp only
  split
  · exact h'
  · exact hP.reportDataStale h'

theorem shadowRecord {r : Nat} {rec : Record} (hr : s.record r = some rec) (hheld : rec.held = true) (item : Item)
    (seq : Octet) (a : ItemAttributes) (h : P s) : P (s.shadowRecord r rec item seq a) := by
  unfold State.shadowRecord
  dsimp only
  split
  · exact hP.notify _ _ (hP.record (hP.rest h (by constructor <;> rfl)) hr rfl rfl rfl rfl fun _ => .inr hheld)
  · exact hP.reportDataStale
      (hP.notify _ _ (hP.record (hP.rest h (by constructor <;> rfl)) hr rfl rfl rfl rfl fun _ => .inr hheld))

theorem arrive (e : Nat) (item : Item) (seq : Octet) (a : ItemAttributes) (h : P s) : P (s.arrive e item seq a) := by
  unfold State.arrive
  split
  · rename_i hn
    exact hP.allocateRecord hn rfl rfl rfl h
  · split
    · exact h
    · rename_i rec hrec
      split
      · rename_i hh
        exact hP.shadowRecord hrec hh _ _ _ h
      · exact hP.updateRecord hrec _ _ _ h

theorem takeItem (e : Nat) (seq : Octet) (item : Item) (h : P s) : P (State.takeItem e seq s item) := by
  unfold State.takeItem
  dsimp only
  split
  · exact hP.arrive _ _ _ _ h
  · exact hP.modCounters _ _ h

theorem nodeSuccess (e : Nat) (seq : Octet) (items : List Item) (h : P s) : P (s.nodeSuccess e seq items) := by
  unfold State.nodeSuccess
  dsimp only
  have items_keep : ∀ t, P t → P (items.foldl (State.takeItem e seq) t) := fun t ht =>
    foldl_keeps (fun _ i h => hP.takeItem e seq i h) _ ht
  have last : ∀ t, P t →
      P (if ((t.node e).checkSequence seq).2 then
          items.foldl (State.takeItem e seq) (t.setNode e ((t.node e).checkSequence seq).1)
        else t.setNode e ((t.node e).checkSequence seq).1) := by
    intro t ht
    split
    · exact items_keep _ (hP.node _ _ ht)
    · exact hP.node _ _ ht
  apply last
  have h1 : ∀ n, P (s.setNode e n) := fun n => hP.node _ _ h
  split <;> split
  · exact hP.reportNodeLost (h1 _)
  · exact hP.reportNodeLost (hP.nodeChanged _ (h1 _))
  · exact h1 _
  · exact hP.nodeChanged _ (h1 _)

theorem pollReplied (p : Port) (t : Transaction) (seq : Octet) (items : List Item) (h : P s) :
    P (s.pollReplied p t seq items) := by
  unfold State.pollReplied
  have h' := hP.dropTransaction p (hP.silenceUpdate p h)
  dsimp only
  split
  · split
    · exact hP.enterQuiet _ _ (hP.modCounters _ _ h')
    · exact hP.enterQuiet _ _ (hP.nodeSuccess _ _ _ h')
  · exact hP.enterQuiet _ _ h'

theorem frameAwaited (p : Port) (t : Transaction) (f : RxFrame) (h : P s) : P (s.frameAwaited p t f) := by
  unfold State.frameAwaited
  split
  · split
    · exact hP.pollReplied _ _ _ _ h
    · split
      · exact hP.requestReplied _ _ _ _ h
      · exact hP.mismatch _ _ h
    · split
      · exact hP.requestReplied _ _ _ _ h
      · exact hP.mismatch _ _ h
    all_goals exact hP.mismatch _ _ h
  · exact hP.strayFrame _ h

theorem frameHandedOn (p : Port) (sq : Sequencer) (f : RxFrame) (h : P s) : P (s.frameHandedOn p sq f) := by
  unfold State.frameHandedOn
  split
  · split
    · exact hP.frameAwaited _ _ _ h
    · exact hP.strayFrame _ h
  · exact hP.frameQuiet _ _ _ h
  · exact hP.strayFrame _ h
  · exact h

theorem frameClassified (p : Port) (c : RxClass) (h : P s) : P (s.frameClassified p c) := by
  unfold State.frameClassified
  split
  · exact hP.formatError _ h
  · exact hP.corruptNotice _ (hP.crcError _ h)
  · exact hP.hear _ (hP.modCounters _ _ h)
  · exact hP.frameHandedOn _ _ _ (hP.hear _ h)

/-! ### Marks -/

theorem staleRecord (r : Nat) (h : P s) : P (s.staleRecord r) := by
  unfold State.staleRecord
  split
  · exact h
  · rename_i rec hr
    split
    · have h' := hP.notify r causeStale
        (hP.record (rec' := { rec with state := .stale }) h hr rfl rfl rfl rfl fun x => .inl x)
      dsimp only
      split
      · exact hP.reportDataStale h'
      · exact h'
    · exact h

theorem markCaptureTable (h : P s) : P s.markCaptureTable :=
  foldl_keeps (fun _ r h => hP.staleRecord r h) _ (hP.ageRecords h)

theorem endHold (r : Nat) (h : P s) : P (s.endHold r) := by
  unfold State.endHold State.unholdRecord
  cases hr : s.record r with
  | none =>
    have e : ({ s with holds := s.holds.filter fun h => h.record ≠ r : State }).record r = none := hr
    rw [e]
    exact hP.dropHold h hr
  | some rec =>
    have e : ({ s with holds := s.holds.filter fun h => h.record ≠ r : State }).record r = some rec := hr
    rw [e]
    dsimp only
    split
    · rename_i hs
      exact hP.unhold h hr rfl rfl rfl rfl hs
    · rename_i sh _
      obtain ⟨h1, h2, h3, h4, h5⟩ :=
        takePayload_keeps { rec with held := false, shadow := none, sequence := sh.sequence } sh.payload
      exact hP.notify _ _ (hP.unhold h hr h1 h2 h3 h4 h5)

theorem markRecordAccess (h : P s) : P s.markRecordAccess := by
  unfold State.markRecordAccess
  exact foldl_keeps (fun _ r h => hP.raise _ (hP.endHold r h)) _ (hP.ageHolds h)

theorem markInhibitUnit (h : P s) : P s.markInhibitUnit := by
  unfold State.markInhibitUnit
  split
  · rename_i n hn
    split
    · exact hP.afterInhibit (hP.release h (by simp [hn]))
    · exact hP.countdown h hn (by omega)
  all_goals exact h

theorem handleMark (b : MarkBlock) (h : P s) : P (s.handleMark b) := by
  cases b
  · exact hP.markCaptureTable h
  · exact hP.markRecordAccess h
  · exact hP.markNodeTable h
  · exact hP.markRequestPool h
  · exact hP.markCrcWindow _ h
  · exact hP.markInhibitUnit h

theorem deliver (b : MarkBlock) (h : P s) : P (s.deliver b) := by
  unfold State.deliver
  split
  · exact hP.handleMark _ (hP.rest h (by constructor <;> rfl))
  · exact h

theorem takeMark (b : MarkBlock) (h : P s) : P (s.takeMark b) := by
  unfold State.takeMark
  split
  · exact hP.deliver _ (hP.deliver _ h)
  · exact hP.deliver _ h

theorem takeMarks (bs : List MarkBlock) (h : P s) : P (s.takeMarks bs) :=
  foldl_keeps (fun _ b h => hP.takeMark b h) _ h

theorem showView (os : List Octet) (h : P s) : P (s.showView os) :=
  hP.rest (t := { s with view := viewOctets os }) h ⟨rfl, rfl, rfl, rfl, rfl, rfl, rfl, rfl, rfl⟩

theorem wholeMark (h : P s) : P s.wholeMark := hP.takeMarks _ h

theorem boundary (h : P s) : P s.boundary := hP.rest h (by constructor <;> rfl)

/-! ### Time -/

theorem autoEvent (e : AutoEvent) (h : P s) : P (s.autoEvent e) := by
  unfold State.autoEvent
  split
  · split
    · exact hP.transmitted _ h
    · exact hP.timedOut _ h
    · exact hP.quietEnded _ h
    · exact h
  · exact hP.boundary h
  · exact hP.takeMark _ h

theorem tick (h : P s) : P s.tick := by
  unfold State.tick
  exact hP.modPort _ _ (hP.modPort _ _ (hP.rest h (by constructor <;> rfl)))

theorem idleStep (h : P s) : P s.idleStep := by
  unfold State.idleStep
  split
  · exact h
  split
  · exact hP.tick h
  · exact hP.autoEvent _ h
  · exact hP.autoEvent _ (hP.rest h (by constructor <;> rfl))

/-! ### Records and holds -/

theorem freeReporting {r : Nat} (hh : ∀ rec, s.record r = some rec → rec.held = false) (h : P s) :
    P (s.freeReporting r) := by
  unfold State.freeReporting
  split
  · exact hP.reportDataStale (hP.free h hh)
  · exact hP.free h hh

omit hP in
theorem noneHeld_free (l : List Nat) (r : Nat) (h : NoneHeld l s) : NoneHeld l (s.freeRecord r) := by
  intro r' hr' rec hrec
  have := record_foldl_free [r] s r'
  simp only [List.foldl_cons, List.foldl_nil, List.mem_singleton] at this
  rw [this] at hrec
  split at hrec
  · cases hrec
  · exact h _ hr' _ hrec

theorem freeAll (l : List Nat) (hl : NoneHeld l s) (h : P s) : P (l.foldl State.freeRecord s) := by
  have key : ∀ (m : List Nat) (t : State), m ⊆ l → NoneHeld l t → P t → P (m.foldl State.freeRecord t) := by
    intro m
    induction m with
    | nil => exact fun _ _ _ ht => ht
    | cons a m ih =>
      intro t hm hn ht
      exact ih _ (fun x hx => hm (List.mem_cons_of_mem _ hx)) (noneHeld_free _ _ hn)
        (hP.free ht (hn a (hm (List.mem_cons_self ..))))
  exact key l s (fun _ x => x) hl h

theorem freeAllReporting (l : List Nat) (hl : NoneHeld l s) (h : P s) : P (l.foldl State.freeReporting s) := by
  have key : ∀ (m : List Nat) (t : State), m ⊆ l → NoneHeld l t → P t → P (m.foldl State.freeReporting t) := by
    intro m
    induction m with
    | nil => exact fun _ _ _ ht => ht
    | cons a m ih =>
      intro t hm hn ht
      refine ih _ (fun x hx => hm (List.mem_cons_of_mem _ hx)) ?_
        (hP.freeReporting (hn a (hm (List.mem_cons_self ..))) ht)
      unfold State.freeReporting
      split
      · exact (noneHeld_calm l).reportDataStale (noneHeld_free _ _ hn)
      · exact noneHeld_free _ _ hn
  exact key l s (fun _ x => x) hl h

omit hP in
theorem flushable_noneHeld : NoneHeld s.flushable s := by
  intro r hr rec hrec
  simp only [State.flushable, List.mem_filter, hrec, Option.any_some, Bool.and_eq_true, Bool.not_eq_true'] at hr
  exact hr.2.2

omit hP in
theorem owned_noneHeld {e : Nat} (ho : s.ownsHeld e = false) : NoneHeld (s.ownedRecords e) s := by
  intro r hr rec hrec
  have := (List.any_eq_false.mp ho) r hr
  simpa [hrec] using this

omit hP in
/-- What a hold leaves of the other records. -/
theorem record_takeHold_ne {r r' : Nat} (h : r' ≠ r) : (s.takeHold r).record r' = s.record r' := by
  unfold State.takeHold
  split
  · rfl
  · rw [State.record_setRecord_ne _ _ h]; rfl

theorem holdSet (l : List Nat) : ∀ (t : State) (k : Nat) (earlier : List Nat),
    (∀ r, r ∉ earlier → t.record r = s.record r) → t.holds.length = s.holds.length + k →
    s.holdSetFailure k earlier l = none → P t → P (l.foldl State.takeHold t) := by
  induction l with
  | nil => exact fun _ _ _ _ _ _ ht => ht
  | cons r l ih =>
    intro t k earlier hrec hlen hf ht
    unfold State.holdSetFailure at hf
    split at hf
    · rename_i hok
      unfold State.holdSetCheck at hok
      split at hok
      · cases hok
      · split at hok
        · cases hok
        · rename_i rec hr
          split at hok
          · cases hok
          · rename_i hh
            simp only [Bool.or_eq_true, not_or, Bool.not_eq_true, List.contains_iff_mem] at hh
            split at hok
            · cases hok
            · rename_i hcap
              have htr : t.record r = some rec := by rw [hrec r hh.2, hr]
              refine ih (t.takeHold r) (k + 1) (earlier ++ [r]) ?_ ?_ hf
                (hP.hold ht htr hh.1 (by simp [Config.holdCapacity] at hcap; omega))
              · intro r' hr'
                simp only [List.mem_append, List.mem_singleton, not_or] at hr'
                rw [record_takeHold_ne hr'.2]
                exact hrec _ hr'.1
              · simp [State.takeHold, htr, hlen]
                omega
    · cases hf

/-! ### Every command -/

theorem clear (set : Octet) (h : P s) : P (s.clearConditions set) := hP.afterInhibit (hP.clearConditions set h)

theorem writeMask (v : Octet) (h : P s) : P (s.writeMask v) := by
  unfold State.writeMask
  split
  · exact h
  · exact hP.afterInhibit (hP.mask v h)

theorem writeRegister (a : Nat) (v : Octet) (h : P s) : P (s.writeRegister a v) := by
  have r : ∀ {t : State}, SameCore s t → P t := fun x => hP.rest h x
  unfold State.writeRegister
  refine ite_keeps (r (by constructor <;> rfl)) ?_
  refine ite_keeps (hP.settings ((releaseModeOf v).getD s.inh.mode) s.inh.delay h) ?_
  refine ite_keeps (hP.settings s.inh.mode v h) ?_
  iterate 10 refine ite_keeps (r (by constructor <;> rfl)) ?_
  exact h

theorem abortWaiting {q : Request} (hq : q ∈ s.requests) (h : P s) : P (s.abortWaiting q) := by
  unfold State.abortWaiting
  split
  · exact hP.evaluate _ (hP.complete _ hq h)
  · exact hP.complete _ hq h

/-- Every command but HARD_RESET keeps the property. -/
theorem exec {c : Instr} {t : State} (hc : c ≠ .hardReset) (h : P s) (he : Machine.exec c s = .next t) : P t := by
  cases c
  case hardReset => exact absurd rfl hc
  case softReset =>
    cases he
    exact hP.softReset (hP.taken 0x5A h)
  case badCommand code =>
    simp only [Machine.exec, execBadCommand] at he
    split at he
    · cases he
      exact hP.result _ _ (hP.taken _ h)
    · cases he
  case viewRecord =>
    cases he
    have h' := hP.taken 0x10 (hP.wholeMark h)
    split
    · exact hP.result _ _ (hP.taken 0x10 h)
    · dsimp only
      split <;> exact hP.result _ _ (hP.showView _ h')
  case viewNode =>
    cases he
    split
    · exact hP.result _ _ (hP.taken 0x11 h)
    · exact hP.result _ _ (hP.showView _ (hP.taken 0x11 (hP.wholeMark h)))
  case viewPort =>
    cases he
    split
    · exact hP.result _ _ (hP.taken 0x12 h)
    · exact hP.result _ _ (hP.showView _ (hP.taken 0x12 (hP.wholeMark h)))
  case popChange =>
    cases he
    have h' := hP.taken 0x18 h
    split
    · exact hP.result _ _ h'
    · rename_i hq
      exact hP.result _ _ (hP.pop h' hq)
  case peekChange =>
    cases he
    have h' := hP.taken 0x19 h
    split <;> exact hP.result _ _ h'
  case pin =>
    cases he
    have h' := hP.taken 0x20 h
    unfold State.setPinned
    split
    · exact hP.result _ _ h'
    · split
      · exact hP.result _ _ h'
      · rename_i rec hr
        exact hP.result _ _ (hP.record h' hr rfl rfl rfl rfl fun x => .inl x)
  case unpin =>
    cases he
    have h' := hP.taken 0x21 h
    unfold State.setPinned
    split
    · exact hP.result _ _ h'
    · split
      · exact hP.result _ _ h'
      · rename_i rec hr
        exact hP.result _ _ (hP.record h' hr rfl rfl rfl rfl fun x => .inl x)
  case release =>
    cases he
    have h' := hP.taken 0x22 h
    split
    · exact hP.result _ _ h'
    · split
      · exact hP.result _ _ h'
      · rename_i rec hr
        split
        · exact hP.result _ _ h'
        · rename_i hh
          refine hP.result _ _ (hP.freeReporting (fun rec' hr' => ?_) h')
          rw [hr] at hr'
          cases hr'
          simpa using hh
  case flush =>
    cases he
    exact hP.result _ _ (hP.reportDataStale (hP.freeAll _ flushable_noneHeld (hP.taken 0x23 h)))
  case hold =>
    cases he
    have h' := hP.taken 0x28 h
    split
    · exact hP.result _ _ h'
    · split
      · exact hP.result _ _ h'
      · rename_i rec hr
        split
        · exact hP.result _ _ h'
        · rename_i hh
          split
          · exact hP.result _ _ h'
          · rename_i hc
            exact hP.result _ _
              (hP.hold h' hr (by simpa using hh) (by simp [Config.holdCapacity] at hc ⊢; omega))
  case holdSet =>
    cases he
    have h' := hP.taken 0x29 h
    split
    · exact hP.result _ _ h'
    · split
      · exact hP.result _ _ h'
      · rename_i hf
        exact hP.result _ _ (hP.holdSet _ _ 0 [] (fun _ _ => rfl) rfl hf h')
  case unhold =>
    cases he
    have h' := hP.taken 0x2A h
    split
    · exact hP.result _ _ h'
    · split
      · exact hP.result _ _ h'
      · split
        · exact hP.result _ _ (hP.endHold _ h')
        · exact hP.result _ _ h'
  case filterSet =>
    cases he
    have h' := hP.taken 0x30 h
    split
    · exact hP.result _ _ h'
    · split
      · exact hP.result _ _ h'
      · exact hP.result _ _ (hP.rest h' (by constructor <;> rfl))
  case nodeSet =>
    cases he
    have h' := hP.taken 0x38 h
    split
    · exact hP.result _ _ h'
    split
    · exact hP.result _ _ h'
    split
    · exact hP.result _ _ h'
    split
    · exact hP.result _ _ h'
    split
    · exact hP.result _ _ h'
    · exact hP.result _ _ (hP.node _ _ h')
  case nodeEnable =>
    cases he
    have h' := hP.taken 0x39 h
    split
    · exact hP.result _ _ h'
    split
    · exact hP.result _ _ h'
    · apply hP.result
      split
      · exact hP.fallDue _ (hP.node _ _ h')
      · exact hP.node _ _ h'
  case nodeDisable =>
    cases he
    have h' := hP.taken 0x3A h
    split
    · exact hP.result _ _ h'
    split
    · exact hP.result _ _ (hP.disableNode _ h')
    · exact hP.result _ _ h'
  case nodeRemove =>
    cases he
    have h' := hP.taken 0x3B h
    split
    · exact hP.result _ _ h'
    split
    · exact hP.result _ _ h'
    split
    · exact hP.result _ _ h'
    · rename_i ho
      exact hP.result _ _ (hP.node _ _ (hP.freeAllReporting _ (owned_noneHeld (by simpa using ho)) h'))
  case nodeAck =>
    cases he
    have h' := hP.taken 0x3C h
    split
    · exact hP.result _ _ (hP.modNode _ _ h')
    split
    · exact hP.result _ _ h'
    · exact hP.result _ _ h'
  case submit =>
    cases he
    have h' := hP.taken 0x40 h
    split
    · exact hP.result _ _ h'
    split
    · exact hP.result _ _ h'
    split
    · exact hP.result _ _ h'
    split
    · exact hP.result _ _ h'
    split
    · exact hP.result _ _ h'
    · rename_i ht hc
      exact hP.result _ _ (hP.evaluate _ (hP.submit h' (by simpa using ht) (by simp [Config.poolSlots] at hc ⊢; omega)))
  case abort =>
    cases he
    have h' := hP.taken 0x41 h
    split
    · exact hP.result _ _ h'
    · rename_i q hq
      split
      · exact hP.result _ _ (hP.abortWaiting (Calm.requestOf_mem hq) h')
      · exact hP.result _ _ (hP.modRequest _ _ (fun _ => rfl) h')
  case popCompletion =>
    cases he
    have h' := hP.taken 0x42 h
    split
    · exact hP.result _ _ h'
    · rename_i hc
      exact hP.result _ _ (hP.popCompletion h' hc)
  case inhForce =>
    cases he
    have h' := hP.taken 0x48 h
    split
    · exact hP.result _ _ h'
    · exact hP.result _ _ (hP.report _ _ h')
  case inhClear =>
    cases he
    have h' := hP.taken 0x49 h
    split
    · exact hP.result _ _ h'
    · exact hP.result _ _ (hP.clear _ h')
  case inhAck =>
    cases he
    have h' := hP.taken 0x4A h
    split
    · rename_i ha
      exact hP.result _ _ (hP.afterInhibit (hP.release h' (by rw [ha]; simp)))
    · exact hP.result _ _ h'
  case portEnable =>
    cases he
    have h' := hP.taken 0x50 h
    split
    · exact hP.result _ _ h'
    split
    · exact hP.result _ _ h'
    · exact hP.result _ _ (hP.enablePort _ h')
  case portDisable =>
    cases he
    have h' := hP.taken 0x51 h
    split
    · exact hP.result _ _ h'
    split
    · exact hP.result _ _ (hP.stopPort _ _ h')
    · exact hP.result _ _ h'
  case portReset =>
    cases he
    have h' := hP.taken 0x52 h
    split
    · exact hP.result _ _ h'
    split
    · exact hP.result _ _ (hP.resetPort _ h')
    · exact hP.result _ _ h'
  case clearCounters =>
    cases he
    have h' := hP.taken 0x53 h
    split
    · exact hP.result _ _ h'
    · exact hP.result _ _ (foldl_keeps (fun _ p h => hP.modCounters p _ h) _ h')
  case evfWrite half v =>
    cases he
    exact hP.rest h (by constructor <;> rfl)
  case eveWrite half v =>
    cases he
    exact hP.rest h (by constructor <;> rfl)
  case inhmWrite v =>
    cases he
    exact hP.writeMask v h
  case eppLowWrite v =>
    cases he
    exact hP.rest h (by constructor <;> rfl)
  case periodWrite v =>
    cases he
    exact hP.rest h (by constructor <;> rfl)
  case epcSnapshot =>
    cases he
    exact hP.rest h (by constructor <;> rfl)
  case registerWrite a v =>
    simp only [Machine.exec, execRegisterWrite] at he
    split at he
    · cases he
      exact hP.writeRegister _ _ h
    · cases he
  case frameReceived p os =>
    cases he
    split
    · exact hP.frameClassified _ _ (hP.modPort _ _ h)
    · exact h
  case grant p =>
    cases he
    exact hP.evaluate _ h
  case transmitCompletion p =>
    cases he
    exact hP.transmitted _ h
  case responseTimeoutExpiry p =>
    cases he
    exact hP.timedOut _ h
  case quietIntervalExpiry p =>
    cases he
    exact hP.quietEnded _ h
  case epochMark bs =>
    cases he
    split
    · exact h
    · exact hP.takeMarks _ (hP.boundary (hP.takeMarks _ h))
  case recordStale =>
    cases he
    exact hP.takeMark _ h
  case holdExpiry =>
    cases he
    exact hP.takeMark _ h
  case fallsDue =>
    cases he
    exact hP.takeMark _ h
  case deadlineExpiry =>
    cases he
    exact hP.takeMark _ h
  case crcWindowEnd p =>
    cases he
    exact hP.takeMark _ h
  case releaseCountdownEnd =>
    cases he
    exact hP.takeMark _ h
  case startDelimiter p =>
    cases he
    split
    · exact hP.modPort _ _ h
    · exact h

end Kept

namespace Closed

variable {P : State → Prop} (hP : Closed P) {s : State}
include hP

/-- Every command keeps the property. -/
theorem exec {c : Instr} {t : State} (h : P s) (he : Machine.exec c s = .next t) : P t := by
  by_cases hc : c = .hardReset
  · subst hc
    cases he
    exact hP.hardReset h
  · exact hP.toKept.exec hc h he

/-- Every step keeps the property. -/
theorem step {t : State} (h : P s) (he : Machine.step s = .next t) : P t := by
  unfold Machine.step at he
  split at he
  · cases he
    exact hP.toKept.idleStep h
  · rename_i hq
    exact hP.exec (hP.leave h hq) he

end Closed

end Sys2Proof.Machine
end

