-- ==== Sys2Proof/Laws/HostPort.lean ====
section
/-! SUPPORT. What the edges at the host port can do, and that no command but HARD_RESET touches the port. -/

namespace Sys2Proof.Machine

@[simp] theorem length_bitsOf (o : Octet) : (bitsOf o).length = 8 := by simp [bitsOf]

/-- Eight bits sampled in the order in which an octet is sent are that octet. -/
theorem octetOfBits_bitsOf (o : Octet) : octetOfBits (bitsOf o) = o := by
  revert o
  decide

/-! ### No command but HARD_RESET touches the host port or the commands that wait -/

/-- The host port, the held mark and the commands that wait are these. -/
def HostIs (h : HostPort) (b : Bool) (l : List Instr) (s : State) : Prop := s.host = h ∧ s.held = b ∧ s.pending = l

theorem hostIs_inhSettle {h : HostPort} {b : Bool} {l : List Instr} {s : State} (n : Octet) (hs : HostIs h b l s) :
    HostIs h b l (s.inhSettle n) := by
  obtain ⟨u, k, e⟩ := s.inhSettle_eq n
  rw [e]
  exact hs

theorem hostIs_kept (h : HostPort) (b : Bool) (l : List Instr) : Kept (HostIs h b l) where
  rest hs hc := ⟨hc.host.trans hs.1, hc.held.trans hs.2.1, hc.pending.trans hs.2.2⟩
  completeAll m st hs _ := by
    rw [foldl_complete]
    exact hs
  mapRequests _ hs _ := hs
  record hs _ _ _ _ _ _ := hs
  notify r c hs := by
    obtain ⟨rs, q, e⟩ := State.notify_eq _ r c
    rw [e]
    exact hs
  condition c on hs := by
    obtain ⟨u, k, e⟩ := State.setCondition_eq _ c on
    rw [e]
    exact hs
  allocate hs _ _ _ _ _ := hs
  reuse hs _ _ _ _ _ _ := hs
  free hs _ := hs
  pop hs _ := by
    unfold State.clearQueued
    split <;> exact hs
  hold hs _ _ _ := by
    unfold State.takeHold
    split <;> exact hs
  unhold hs _ _ _ _ _ _ := hs
  dropHold hs _ := hs
  ageHolds hs := hs
  ageRecords hs := hs
  submit hs _ _ := hs
  popCompletion hs _ := hs
  clearConditions _ hs := hostIs_inhSettle _ hs
  mask _ hs := hostIs_inhSettle _ hs
  settings _ _ hs := hs
  release hs _ := by
    unfold State.inhRelease
    exact hs
  countdown hs _ _ := hs
  softReset hs := hostIs_inhSettle _ hs

/-- Every command but HARD_RESET leaves the host port, the held mark and the queue as they are. -/
theorem exec_host {c : Instr} {s t : State} (hc : c ≠ .hardReset) (he : exec c s = .next t) :
    t.host = s.host ∧ t.held = s.held ∧ t.pending = s.pending :=
  (hostIs_kept s.host s.held s.pending).exec hc ⟨rfl, rfl, rfl⟩ he

/-! ### What the part has taken -/

theorem send_of_held {s : State} (h : s.held = true) (cs : List Instr) : s.send cs = s := by simp [State.send, h]

theorem send_of_not_held {s : State} (h : s.held = false) (cs : List Instr) :
    s.send cs = { s with pending := s.pending ++ cs } := by simp [State.send, h]

theorem caughtUp_of_held {s : State} (h : s.held = true) : s.caughtUp = s := by simp [State.caughtUp, h]

theorem caughtUp_of_empty {s : State} (h : s.pending = []) : s.caughtUp = s := by
  simp [State.caughtUp, h, takeWaiting]

/-- With nothing waiting, a command that a pin completes is executed at that moment (R190). -/
theorem takeNow_of_empty {s t : State} (c : Instr) (hh : s.held = false) (hp : s.pending = [])
    (he : exec c s = .next t) : s.takeNow c = t := by
  have hs : s.send [c] = { s with pending := [c] } := by rw [send_of_not_held hh, hp]; rfl
  have hr : { s with pending := [] } = s := by rw [← hp]
  have run : takeWaiting 1 { s with pending := [c] } = t := by
    show (match exec c { s with pending := [] } with
      | .next u => u
      | .fault _ | .refused _ => { s with pending := [] }) = t
    rw [hr, he]
  unfold State.takeNow State.caughtUp
  rw [hs, if_neg (by simp [hh])]
  exact run

/-! ### What an edge changes, with nothing waiting -/

/-- Two states that differ at most in the host port and the epoch timer's snapshot. -/
def SameButHost (s t : State) : Prop :=
  t = { s with host := t.host, epoch := { s.epoch with snapshot := t.epoch.snapshot } }

theorem SameButHost.trans {s t u : State} (h : SameButHost s t) (k : SameButHost t u) : SameButHost s u := by
  unfold SameButHost at *
  rw [k, h]

theorem SameButHost.pending {s t : State} (h : SameButHost s t) : t.pending = s.pending := by rw [h]

theorem sameButHost_csFalls {s : State} (h : s.pending = []) : SameButHost s s.csFalls := by
  simp only [State.csFalls, caughtUp_of_empty h]
  split <;> rfl

theorem sameButHost_csRises (s : State) : SameButHost s s.csRises := rfl

/-- A bit sampled changes the port alone, but for the eighth bit of an octet written, which is that write. -/
theorem sampled_cases (s : State) (b : Bool) :
    SameButHost s (s.sampled b) ∨
      ∃ a got, s.host.phase = .write a got ∧ got.length = 7 ∧
        s.sampled b =
          { s with host := { s.host with phase := .write (a + 1) [] } : State }.takeNow
            (hostWrite a (octetOfBits (got ++ [b]))) := by
  unfold State.sampled State.octetRead
  split
  · exact .inl rfl
  · split <;> exact .inl rfl
  · rename_i a got hp
    split
    · exact .inr ⟨a, got, hp, ‹_›, rfl⟩
    · exact .inl rfl
  · split
    · split <;> exact .inl rfl
    · exact .inl rfl

theorem sameButHost_shifted (s : State) : SameButHost s s.shifted := by
  unfold State.shifted; split <;> rfl

theorem sameButHost_sckFalls {s : State} (h : s.pending = []) : SameButHost s s.sckFalls := by
  simp only [State.sckFalls, caughtUp_of_empty h]
  split
  · rfl
  · exact SameButHost.trans (t := { s with host := _ }) rfl (sameButHost_shifted _)

/-- Bits clocked one list after another. -/
theorem clockBits_append (xs ys : List Bool) (s : State) :
    clockBits (xs ++ ys) s =
      ((clockBits xs s).1 ++ (clockBits ys (clockBits xs s).2).1, (clockBits ys (clockBits xs s).2).2) := by
  induction xs generalizing s with
  | nil => rfl
  | cons b bs ih => simp [clockBits, ih]

end Sys2Proof.Machine
end

