-- ==== Sys2Proof/Laws/FieldLine.lean ====
section
/-! SUPPORT. What a bit time on a Fieldlane line can do, and what SENDING puts on it. -/

namespace Sys2Proof.Machine

/-! ### Octets on the line (R70) -/

@[simp] theorem length_octetLevels (o : Octet) : (octetLevels o).length = 10 := by simp [octetLevels]

/-- The data bits of an octet, received in the order in which they are sent, are that octet. -/
theorem octetOfLine_octetLevels (o : Octet) : octetOfLine (((octetLevels o).drop 1).take 8) = o := by
  revert o
  decide

/-- Bit `i` of octet `n` of a frame stands `10 * n + i` bit times after its beginning. -/
theorem getElem?_flatMap_octetLevels (frame : List Octet) (n i : Nat) (hn : n < frame.length) (hi : i < 10) :
    (frame.flatMap octetLevels)[10 * n + i]? = (octetLevels frame[n])[i]? := by
  induction frame generalizing n with
  | nil => simp at hn
  | cons o os ih =>
    cases n with
    | zero => simp [List.getElem?_append, hi]
    | succ n =>
      have h : 10 * (n + 1) + i - 10 = 10 * n + i := by omega
      have := ih n (by simpa using hn)
      rw [List.flatMap_cons, List.getElem?_append_right (by simp; omega), length_octetLevels, h, this]
      rfl

/-! ### A bit time -/

@[simp] theorem State.port_setReceiver (s : State) (p : Port) (r : LineReceiver) :
    (s.setReceiver p r).port p = { s.port p with receiver := r } := by cases p <;> rfl

@[simp] theorem State.pending_setReceiver (s : State) (p : Port) (r : LineReceiver) :
    (s.setReceiver p r).pending = s.pending := by cases p <;> rfl

@[simp] theorem State.held_setReceiver (s : State) (p : Port) (r : LineReceiver) :
    (s.setReceiver p r).held = s.held := by cases p <;> rfl

/-- A port that does not listen ignores its receive pin (R76). -/
theorem lineBit_ignored {s : State} {p : Port} (hp : s.pending = []) (h : s.held = true ∨ (s.port p).listening = false)
    (high : Bool) : s.lineBit p high = s := by
  unfold State.lineBit
  rw [caughtUp_of_empty hp, if_pos]
  rcases h with h | h <;> simp [h]

/-- What a bit time can do to a port that listens, with nothing waiting: a bit of an octet, a bit of idle, an octet
whose stop bit was found, or one whose stop bit was not. -/
theorem lineBit_cases {s : State} {p : Port} (hp : s.pending = []) (hh : s.held = false)
    (hl : (s.port p).listening = true) (high : Bool) :
    let r := (s.port p).receiver
    (∃ bits, s.lineBit p high = s.setReceiver p { r with bits := some bits }) ∨
      (r.bits = none ∧ high = true ∧ s.lineBit p high = s.lineIdle p r) ∨
      ∃ got, r.bits = some got ∧ 8 ≤ got.length ∧
        s.lineBit p high =
          if high then
            (s.setReceiver p .fresh).octetReceived p (decide (Config.idleBits ≤ r.idle)) (octetOfLine got)
          else (s.setReceiver p .fresh).frameEnds p := by
  intro r
  unfold State.lineBit
  rw [caughtUp_of_empty hp, if_neg (by simp [hh, hl])]
  split
  · split
    · exact .inr (.inl ⟨‹_›, ‹_›, rfl⟩)
    · exact .inl ⟨_, rfl⟩
  · split
    · exact .inl ⟨_, rfl⟩
    · exact .inr (.inr ⟨_, ‹_›, by omega, rfl⟩)

end Sys2Proof.Machine
end

