-- ==== Sys2Proof/Laws/Ports.lean ====
section
/-! SUPPORT. What the shared operations do to the ports: those of the records, the nodes, the pool and the inhibit unit
leave both ports alone, and an evaluation by an arbiter keeps `PortsOk`. -/

namespace Sys2Proof.Machine

variable (s : State)

/-! ### Operations that leave the ports alone -/

@[simp] theorem State.port_setRecord (r : Nat) (o : Option Record) (p : Port) : (s.setRecord r o).port p = s.port p := by
  cases p <;> rfl

@[simp] theorem State.port_setNode (e : Nat) (n : NodeEntry) (p : Port) : (s.setNode e n).port p = s.port p := by
  cases p <;> rfl

@[simp] theorem State.port_modNode (e : Nat) (f : NodeEntry → NodeEntry) (p : Port) :
    (s.modNode e f).port p = s.port p := s.port_setNode e _ p

@[simp] theorem State.port_raise (e : BitVec 9) (p : Port) : (s.raise e).port p = s.port p := by cases p <;> rfl

@[simp] theorem State.port_taken (c : Octet) (p : Port) : (s.taken c).port p = s.port p := by cases p <;> rfl

@[simp] theorem State.port_result (c : ResultCode) (os : List Octet) (p : Port) : (s.result c os).port p = s.port p := by
  cases p <;> rfl

@[simp] theorem State.port_unqueue (r : Nat) (p : Port) : (s.unqueue r).port p = s.port p := by cases p <;> rfl

@[simp] theorem State.port_freeRecord (r : Nat) (p : Port) : (s.freeRecord r).port p = s.port p := by cases p <;> rfl

@[simp] theorem State.port_complete (q : Request) (st : Status) (p : Port) : (s.complete q st).port p = s.port p := by
  cases p <;> rfl

@[simp] theorem State.port_modRequest (tag : Octet) (f : Request → Request) (p : Port) :
    (s.modRequest tag f).port p = s.port p := by cases p <;> rfl

@[simp] theorem State.port_join (r : Nat) (c : BitVec 5) (p : Port) : (s.join r c).port p = s.port p := by
  unfold State.join
  split
  · rfl
  · split <;> cases p <;> rfl

@[simp] theorem State.port_notify (r : Nat) (c : BitVec 5) (p : Port) : (s.notify r c).port p = s.port p := by
  unfold State.notify
  split
  · rfl
  · split
    · rfl
    · simp

@[simp] theorem State.port_setCondition (c : Condition) (on : Bool) (p : Port) :
    (s.setCondition c on).port p = s.port p := by
  obtain ⟨u, k, h⟩ := s.setCondition_eq c on
  rw [h]
  cases p <;> rfl

@[simp] theorem State.port_orphanRecord (r : Nat) (p : Port) : (s.orphanRecord r).port p = s.port p := by
  unfold State.orphanRecord
  split
  · rfl
  · split <;> simp

@[simp] theorem State.port_foldl_orphan (l : List Nat) (p : Port) : (l.foldl State.orphanRecord s).port p = s.port p := by
  induction l generalizing s with
  | nil => rfl
  | cons r l ih => simp [ih]

@[simp] theorem State.port_nodeNotice (e : Nat) (p : Port) : (s.nodeNotice e).port p = s.port p := by
  simp [State.nodeNotice]

@[simp] theorem State.port_nodeChanged (e : Nat) (p : Port) : (s.nodeChanged e).port p = s.port p := by
  simp [State.nodeChanged]

@[simp] theorem State.port_nodeMiss (e : Nat) (p : Port) : (s.nodeMiss e).port p = s.port p := by
  unfold State.nodeMiss
  dsimp only
  split
  · simp
  · split
    · split <;> simp
    · simp

@[simp] theorem State.port_pollFailed (e : Nat) (b : Bool) (p : Port) : (s.pollFailed e b).port p = s.port p := by
  unfold State.pollFailed
  split <;> simp

@[simp] theorem State.port_requestCandidate (q p : Port) (l : List Request) :
    ((s.requestCandidate q l).1).port p = s.port p := by
  induction l generalizing s with
  | nil => rfl
  | cons x l ih =>
    unfold State.requestCandidate
    split
    · rfl
    · split
      · rfl
      · rw [ih, port_complete]

/-- A report of a failed transaction drops the record of its own port, and does nothing else to the ports (R108). -/
theorem State.port_reportFailed (q p : Port) (t : Transaction) :
    (s.reportFailed q t).port p = if p = q then { s.port q with transaction := none } else s.port p := by
  have hd : (s.dropTransaction q).port p = if p = q then { s.port q with transaction := none } else s.port p :=
    s.port_setPort q p _
  unfold State.reportFailed
  dsimp only
  split
  · split
    · split
      · exact hd
      · rw [port_pollFailed]; exact hd
    · exact hd
  · split
    · rw [port_complete]; exact hd
    · exact hd

/-! ### Grants and evaluations -/

/-- What an attempt's start makes of its port: SENDING, with the transaction in flight and no retry pending; the link and
the other port are as they were (R99). -/
theorem State.port_startAttempt (q p : Port) (t : Transaction) : ∃ x : PortState,
    (s.startAttempt q t).port p = (if p = q then x else s.port p) ∧ x.isSending = true ∧ x.link = (s.port q).link ∧
      ∃ u, x.transaction = some u ∧ u.retryPending = false := by
  cases hw : t.work <;>
  · simp only [State.startAttempt, hw, State.modPort]
    rw [port_setPort]
    exact ⟨_, rfl, rfl, by simp, _, rfl, rfl⟩

/-- A port that is SENDING with its transaction in flight, and is not DISABLED, is as it should be. -/
theorem PortState.ok_of_sending {x : PortState} (hs : x.isSending = true) (hl : x.link ≠ .disabled)
    (ht : ∃ u, x.transaction = some u ∧ u.retryPending = false) : x.Ok where
  idle_free h := by simp [PortState.isSending, h] at hs
  rest_retries h := by simp [hs] at h
  busy_inFlight _ := ht
  disabled_free h := absurd h hl

/-- An attempt's start on an enabled port keeps the ports as they should be, whatever its port held before. -/
theorem portsOk_startAttempt {s : State} {q : Port} (t : Transaction) (hl : (s.port q).link ≠ .disabled)
    (h : ∀ p, p ≠ q → (s.port p).Ok) : PortsOk (s.startAttempt q t) := by
  intro p
  obtain ⟨x, hx, hs, hk, ht⟩ := s.port_startAttempt q p t
  rw [hx]
  split
  · exact PortState.ok_of_sending hs (hk ▸ hl) ht
  · exact h p ‹_›

/-- First attempts are granted on an enabled port without a transaction: either nothing changes there, or an attempt
starts (R97). -/
theorem portsOk_grantFirst {s : State} {q : Port} (hl : (s.port q).link ≠ .disabled) (h : PortsOk s) :
    PortsOk (s.grantFirst q) := by
  have hc : ∀ p, ((s.requestCandidate q (s.waitingOf q)).1).port p = s.port p := fun p => by simp
  have poll : ∀ (u : State) (e : Nat), (∀ p, u.port p = s.port p) → PortsOk (u.grantPoll q e) := by
    intro u e hu
    refine portsOk_startAttempt _ ?_ fun p hp => ?_
    · simpa [State.modPort, hu] using hl
    · simpa [State.modPort, State.port_setPort, hp, hu] using h p
  have request : ∀ (u : State) (r : Request), (∀ p, u.port p = s.port p) → PortsOk (u.grantRequest q r) := by
    intro u r hu
    refine portsOk_startAttempt _ ?_ fun p hp => ?_
    · simpa [State.modPort, hu] using hl
    · simpa [State.modPort, State.port_setPort, hp, hu] using h p
  unfold State.grantFirst
  dsimp only
  split
  · split
    · exact request _ _ hc
    · exact poll _ _ hc
  · exact poll _ _ hc
  · exact request _ _ hc
  · exact fun p => hc p ▸ h p

/-- An evaluation keeps the ports as they should be; it may find a pending retry on its own port, which has just come to
IDLE (R97, R105, R107). -/
theorem portsOk_evaluate_of_retry {s : State} {q : Port} (h : ∀ p, p ≠ q → (s.port p).Ok)
    (hi : (s.port q).sequencer = .idle) (ht : ∀ t, (s.port q).transaction = some t → t.retryPending = true)
    (hd : (s.port q).link = .disabled → (s.port q).transaction = none) : PortsOk (s.evaluate q) := by
  have free : ∀ u : State, (∀ p, p ≠ q → u.port p = s.port p) → (u.port q).sequencer = .idle →
      (u.port q).transaction = none → PortsOk u := by
    intro u hu hs hn p
    by_cases hp : p = q
    · subst hp
      exact ⟨fun _ => hn, fun _ _ t h => by simp [hn] at h, fun h => by simp [PortState.isSending, PortState.isAwaiting, hs] at h,
        fun _ => hn⟩
    · exact hu p hp ▸ h p hp
  unfold State.evaluate
  split
  · rename_i he
    have hl : (s.port q).link ≠ .disabled := by
      simp only [PortState.enabled, Bool.and_eq_true, decide_eq_true_eq] at he
      exact he.1
    split
    · exact portsOk_grantFirst hl (free s (fun _ _ => rfl) hi ‹_›)
    · rename_i t htr
      rw [if_pos (ht t htr)]
      split
      · refine portsOk_grantFirst ?_ (free _ (fun p hp => ?_) ?_ ?_)
        · simpa [State.port_reportFailed] using hl
        · simp [State.port_reportFailed, hp]
        · simpa [State.port_reportFailed] using hi
        · simp [State.port_reportFailed]
      · exact portsOk_startAttempt t hl h
  · rename_i he
    refine free s (fun _ _ => rfl) hi ?_
    by_cases hl : (s.port q).link = .disabled
    · exact hd hl
    · simp [PortState.enabled, PortState.isIdle, hl, hi] at he

/-- An evaluation keeps the ports as they should be (R96). -/
theorem portsOk_evaluate {s : State} (q : Port) (h : PortsOk s) : PortsOk (s.evaluate q) := by
  by_cases hi : (s.port q).sequencer = .idle
  · have hn := (h q).idle_free hi
    exact portsOk_evaluate_of_retry (fun p _ => h p) hi (fun t ht => by simp [hn] at ht) fun _ => hn
  · have : s.evaluate q = s := by simp [State.evaluate, PortState.isIdle, hi]
    rw [this]
    exact h

theorem portsOk_choices {s : State} (n : Nat) (h : PortsOk s) : PortsOk { s with choices := n } := fun p => by
  have := h p
  cases p <;> exact this

/-- The arbiters that one event starts keep the ports as they should be, in whichever order they evaluate. -/
theorem portsOk_evaluatePorts {s : State} (ps : List Port) (h : PortsOk s) : PortsOk (s.evaluatePorts ps) := by
  have fold : ∀ (l : List Port) {u : State}, PortsOk u → PortsOk (l.foldl State.evaluate u) := by
    intro l
    induction l with
    | nil => exact fun hu => hu
    | cons p l ih => exact fun hu => ih (portsOk_evaluate p hu)
  unfold State.evaluatePorts
  split
  · dsimp only
    split <;> exact portsOk_evaluate _ (portsOk_evaluate _ (portsOk_choices _ h))
  · exact fold ps h

/-- What a fall of INH starts keeps the ports as they should be. -/
theorem portsOk_afterInhibit {s t : State} (h : PortsOk t) : PortsOk (afterInhibit s t) := by
  unfold afterInhibit
  split
  · exact portsOk_evaluatePorts _ h
  · exact h

/-- Every report to the inhibit unit keeps the ports as they should be (R165). -/
theorem portsOk_report {s : State} (c : Condition) (on : Bool) (h : PortsOk s) : PortsOk (s.report c on) :=
  portsOk_afterInhibit fun p => (s.port_setCondition c on p).symm ▸ h p

/-- The end of a quiet interval keeps the ports as they should be (R105). -/
theorem portsOk_quietEnded {s : State} (q : Port) (h : PortsOk s) : PortsOk (s.quietEnded q) := by
  unfold State.quietEnded
  split
  · rename_i hq
    have hr := (h q).rest_retries (by simp [PortState.isSending, hq]) (by simp [PortState.isAwaiting, hq])
    refine portsOk_evaluate_of_retry (fun p hp => ?_) ?_ ?_ ?_
    · simpa [State.modPort, State.port_setPort, hp] using h p
    · simp [State.modPort]
    · simpa [State.modPort] using hr
    · simpa [State.modPort] using (h q).disabled_free
  all_goals exact h

end Sys2Proof.Machine
end

