-- ==== Sys2Proof/Tests/Slice0.lean ====
section
/-! SUPPORT. Tests of single steps, with expected values taken from the spec's worked examples and tables; terms that the
checks of WellFormed refuse; and, for each statement with hypotheses, states and operands that meet them. -/

namespace Sys2Proof.Machine.Tests

/-- The state that a command leaves. -/
def after (c : Instr) (s : State) : State :=
  match exec c s with
  | .next t => t
  | .fault _ => s
  | .refused _ => s

/-! ### Ill-formed terms -/

theorem smoke_badCommand : (Instr.badCommand 0x10).wellFormed = false := by decide
theorem smoke_badCommand_ok : (Instr.badCommand 0x00).wellFormed = true := by decide
theorem smoke_registerWrite : (Instr.registerWrite 0x19 0).wellFormed = false := by decide
theorem smoke_registerWrite_ok : (Instr.registerWrite 0x1A 0).wellFormed = true := by decide
theorem smoke_frame_too_long : (Instr.frameReceived .A [0, 1, 4, 0, 1, 5, 0, 0, 0]).wellFormed = false := by decide
theorem smoke_frame_past_bad_length : (Instr.frameReceived .A [0, 1, 4, 0, 97, 5]).wellFormed = false := by decide
theorem smoke_frame_ok : (Instr.frameReceived .A [0, 1, 4, 0, 1, 5, 0, 0]).wellFormed = true := by decide
theorem smoke_mark_twice : (Instr.epochMark [.nodeTable, .nodeTable]).wellFormed = false := by decide
theorem smoke_mark_order : (Instr.epochMark [.recordAccess, .captureTable]).wellFormed = false := by decide
theorem smoke_mark_ok : (Instr.epochMark [.captureTable, .recordAccess]).wellFormed = true := by decide

/-! ### Codes and octets (R73, R188, R194, R199) -/

theorem test_spi_viewRecord : hostWrite 0x00 0x10 = .viewRecord := by decide
theorem test_spi_nodeSet : hostWrite 0x00 0x38 = .nodeSet := by decide
theorem test_spi_unknown_code : hostWrite 0x00 0x13 = .badCommand 0x13 := by decide
theorem test_spi_wraps : spiCommands [0xFF, 7, 0x5A, 1] = [.registerWrite 0x7F 7, .softReset, .registerWrite 0x01 1] := by
  decide
theorem test_spi_read_snapshot : spiCommands [0x18, 0, 0, 0, 0] = [.epcSnapshot] := by decide

set_option maxRecDepth 16000 in
/-- R73's own test value. -/
theorem test_crc_digits : crc [0x31, 0x32, 0x33, 0x34, 0x35, 0x36, 0x37, 0x38, 0x39] = 0x29B1 := by decide

/-- R199's example: the first attempt to poll node 12 with transmit count 17, and its retry. -/
theorem test_poll_octets :
    (pollFrame 12 false 17).take 6 = [0xC5, 0x0C, 0x00, 0x01, 0x11, 0x00] ∧
      (pollFrame 12 true 18).take 6 = [0xC5, 0x0C, 0x00, 0x81, 0x12, 0x00] := by decide

/-- The table of frame lengths in 05: POLL 8 octets; a WRITE of 24 octets 34. -/
theorem test_frame_lengths :
    (pollFrame 1 false 0).length = 8 ∧
      (writeFrame ⟨0, .A, 8, 3, List.replicate 24 0, 0, 0, false, .waiting, false, 0⟩ 0).length = 34 := by decide

set_option maxRecDepth 16000 in
/-- The host port bit by bit (R188): 5Ah written to CMD is taken at once (R190); a second octet cut short writes nothing. -/
theorem test_spi_bits :
    let t := (spiTransaction (bitsOf 0x80 ++ bitsOf 0x5A ++ [true, false, true]) State.reset).2
    t.cmd = 0x5A ∧ t.args = #v[0, 0, 0, 0] ∧ t.pending = [] := by decide

set_option maxRecDepth 32000 in
/-- A code that names no command, and RSLT read in the next transaction: BAD_COMMAND, 0Ch (R190, R191). -/
theorem test_spi_result :
    ((spiTransaction (bitsOf 0x05 ++ bitsOf 0x00) (spiTransaction (bitsOf 0x80 ++ bitsOf 0x01) State.reset).2).1).drop 8 =
      (bitsOf 0x0C).map some := by decide

set_option maxRecDepth 16000 in
/-- During the address octet the status octet is shifted out, INH asserted after reset, and then 00h in a write (R188). -/
theorem test_spi_status :
    (spiTransaction (bitsOf 0x81 ++ bitsOf 0xFF) State.reset).1 = (bitsOf 0x02 ++ bitsOf 0x00).map some := by decide

/-- A read of PCFA gives 01h after reset (R194). -/
theorem test_spi_read :
    ((spiTransaction (bitsOf 0x70 ++ bitsOf 0x00) State.reset).1).drop 8 = (bitsOf 0x01).map some := by decide

/-- SDO is high-impedance while CS# is high and while the part is held, and INH is then high (R188, R192). -/
theorem test_sdo : State.reset.sdo = none ∧ (State.reset.csFalls.resetFalls).sdo = none ∧
    State.reset.csFalls.resetFalls.pins.inhHigh = true := by decide

set_option maxRecDepth 16000 in
/-- A transaction whose CS# fell before the held period ended is not taken (R192). -/
theorem test_spi_after_reset :
    (match step State.reset.csFalls.resetFalls with
      | .next t => (clockBits (bitsOf 0x80 ++ bitsOf 0x5A) t).2.cmd
      | _ => 0xFF) = 0 := by decide

/-! ### Small states -/

/-- A LIVE record of entry 3, item type 12, as in the worked example of 01. -/
def example5 : Record :=
  { entry := 3, itemType := 12, state := .live, payload := [1, 2], sequence := 40, age := 0, updateCount := 7
    filterIndex := 0, policy := .onChange, staleLimit := 3, inhibit := false, pinned := false, held := false
    shadow := none, queued := false }

/-- Reset with one record in use. -/
def withRecord (r : Nat) (rec : Record) : State := State.reset.setRecord r (some rec)

/-- Reset with arguments. -/
def args (s : State) (a b c d : Octet) : State := { s with args := #v[a, b, c, d] }

/-- A node entry on port A. -/
def nodeAt (address : Nat) (state : NodeState) : NodeEntry :=
  { NodeEntry.vacant with address, pollInterval := 2, retryLimit := 1, absentThreshold := 3, state }

/-- Port A UP and IDLE. -/
def portUp : PortState := { PortState.reset with link := .up }

/-- Reset with port A UP, and entry 2 PRESENT on it at address 5. -/
def running : State := ({ State.reset with portA := portUp } : State).setNode 2 (nodeAt 5 .present)

/-- A request for port A, address 5. -/
def request30 : Request :=
  { tag := 30, port := .A, address := 5, itemType := 3, payload := [7], retryCount := 0, deadline := 2, gated := false
    state := .waiting, abortPending := false, attempts := 0 }

/-- A poll of entry 2 in flight. -/
def poll2 : Transaction :=
  { work := .poll, entry := some 2, awaited := some 5, allowed := 2, made := 1, firstInDown := false
    retryPending := false, entryLost := false }

/-- The poll of entry 2 in its wait for a reply. -/
def awaiting2 : State :=
  (running.setNode 2 { nodeAt 5 .present with polled := true, missCount := 1, lastSequence := some 77 }).setPort .A
    { portUp with sequencer := .awaiting 100, transaction := some poll2, deframer := .receiving [] }

/-- An epoch mark that only one block has still to take. -/
def marked (b : MarkBlock) (s : State) : State := { s with marks := [b] }

/-- The unit in a state with no condition active. -/
def inhIn (k : InhibitState) (s : State) : State := { s with inh := { s.inh with state := k, active := 0 } }

/-! ### One step of each kind -/

theorem test_hardReset_window :
    (after .hardReset running).statusOctet = 0x02 ∧ (after .hardReset running).readRegister 0x12 = 0xFF := by decide
theorem test_softReset_cmd : (after .softReset running).cmd = 0x5A ∧ (after .softReset running).portA.link = .searching := by
  decide
theorem test_badCommand : (after (.badCommand 0x00) running).rslt = .badCommand := by decide
theorem test_viewRecord_free : (after .viewRecord State.reset).rslt = .noRecord := by decide
theorem test_viewRecord_state : (after .viewRecord (withRecord 0 example5)).view[4] = 1 := by decide
theorem test_viewNode_vacant : (after .viewNode (args State.reset 31 0 0 0)).view[1] = 31 := by decide

set_option maxRecDepth 32000 in
/-- A view taken after a mark shows the mark whole: age and hold age alike (R47). -/
theorem test_view_whole_mark :
    let s := args { withRecord 5 { example5 with held := true } with holds := [⟨5, 0⟩] } 5 0 0 0
    let v := (after .viewRecord (after (.epochMark [.captureTable]) s)).view
    v[31] = 1 ∧ v[38] = 1 ∧ v[39] = 1 := by decide

theorem witness_marks : ({ running with marks := MarkBlock.all } : State).marks.Nodup ∧ running.marks = [] ∧
    (args State.reset 47 0 0 0).arg 0 = 47 := by decide

theorem test_viewPort_rejects : (after .viewPort (args State.reset 2 0 0 0)).rslt = .badArgument := by decide
theorem test_popChange_empty : (after .popChange State.reset).res = #v[0xFF, 0, 0, 0, 0, 0] := by decide

/-- Step 10 of the worked example of 01: record 5 with {STALE, REVIVED} is popped. -/
theorem test_popChange_causes :
    (after .popChange { withRecord 5 { example5 with queued := true } with queue := [⟨5, 0x0C⟩] }).res =
      #v[5, 0x0C, 0, 0, 0, 0] := by decide
theorem test_peekChange_keeps :
    (after .peekChange { withRecord 5 { example5 with queued := true } with queue := [⟨5, 0x0C⟩] }).queue.length = 1 := by
  decide
theorem test_pin : (after .pin (args (withRecord 5 example5) 5 0 0 0)).record 5 = some { example5 with pinned := true } := by
  decide
theorem test_unpin_above_47 : (after .unpin (args State.reset 48 0 0 0)).rslt = .badArgument := by decide
theorem test_release_held : (after .release (args (withRecord 5 { example5 with held := true }) 5 0 0 0)).rslt = .held := by
  decide
theorem test_flush_counts : (after .flush (withRecord 5 example5)).res = #v[1, 0, 0, 0, 0, 0] := by decide
theorem test_hold_fifth :
    (after .hold (args { withRecord 5 example5 with holds := [⟨0, 0⟩, ⟨1, 0⟩, ⟨2, 0⟩, ⟨3, 0⟩] } 5 0 0 0)).rslt = .holdLimit := by
  decide
theorem test_holdSet_same_index_twice :
    (after .holdSet (args (withRecord 5 example5) 2 5 5 0)).rslt = .held ∧
      (after .holdSet (args (withRecord 5 example5) 2 5 5 0)).res = #v[1, 0, 0, 0, 0, 0] := by decide

/-- Step 11 of the worked example of 01: the shadow 01h 04h with sequence 43 is applied. -/
theorem test_unhold_applies_shadow :
    ((after .unhold (args
        { withRecord 5 { example5 with held := true, age := 1, sequence := 41, shadow := some ⟨[1, 4], 43⟩ } with
          holds := [⟨5, 1⟩] } 5 0 0 0)).record 5).map (fun r => (r.payload, r.sequence, r.updateCount, r.age)) =
      some ([1, 4], 43, 8, 1) := by decide
theorem test_filterSet_disabled : (after .filterSet State.reset).res = #v[0, 0, 0, 0, 0, 0] := by decide
theorem test_filterSet_index : (after .filterSet (args State.reset 16 0 0 0)).rslt = .badArgument := by decide
theorem test_nodeSet_range : (after .nodeSet State.reset).rslt = .badArgument := by decide
theorem test_nodeEnable_waits :
    ((after .nodeEnable (args (State.reset.setNode 2 (nodeAt 5 .disabled)) 2 0 0 0)).node 2).state = .probing := by decide
theorem test_nodeDisable : ((after .nodeDisable (args running 2 0 0 0)).node 2).state = .disabled := by decide
theorem test_nodeRemove_present : (after .nodeRemove (args running 2 0 0 0)).rslt = .wrongState := by decide
theorem test_nodeAck_none : (after .nodeAck (args running 255 0 0 0)).res = #v[0xFF, 0, 0, 0, 0, 0] := by decide
theorem test_submit_needs_entry : (after .submit running).rslt = .badArgument := by decide
theorem test_abort_unknown : (after .abort running).rslt = .noTag := by decide

/-- Step 9 of the worked example of 08: tag 30, EXPIRED, completed at epoch 1002. -/
theorem test_popCompletion :
    (after .popCompletion { State.reset with completions := [⟨30, .expired, 0, 1002⟩] }).res =
      #v[30, 4, 0, 0, 0xEA, 0x03] := by decide
theorem test_inhForce_argument : (after .inhForce (args State.reset 2 0 0 0)).rslt = .badArgument := by decide
theorem test_inhClear_live : (after .inhClear (args State.reset 0x04 0 0 0)).rslt = .badArgument := by decide

/-- STARTUP cleared in AUTO with the reset delay: RELEASING, countdown 10 (R172, R179). -/
theorem test_inhClear_startup : (after .inhClear (args State.reset 0x01 0 0 0)).inh.state = .releasing 10 := by decide
theorem test_inhAck_asserted : (after .inhAck State.reset).res = #v[1, 0, 0, 0, 0, 0] := by decide
theorem test_inhmWrite_masks : (after (.inhmWrite 0xFE) State.reset).inh.state = .releasing 10 := by decide
theorem test_portEnable_twice : (after .portEnable running).rslt = .wrongState := by decide
theorem test_portDisable : (after .portDisable running).portA.link = .disabled ∧
    ((after .portDisable running).node 2).state = .probing := by decide
theorem test_portReset_due : (after .portReset running).portA.dueList = [2] := by decide
theorem test_clearCounters_argument : (after .clearCounters (args State.reset 3 0 0 0)).rslt = .badArgument := by decide
theorem test_evfWrite_clears : (after (.evfWrite .low 0x08) { State.reset with sticky := 0x18 }).sticky = 0x10 := by decide
theorem test_eveWrite_slip : (after (.eveWrite .high 0xFF) State.reset).enables = 0x100 := by decide

/-- Steps 1 and 2 of the worked example of 09: a period write of 50 becomes pending, and EPP reads 50. -/
theorem test_periodWrite_pending :
    (after (.periodWrite 0x00) (after (.eppLowWrite 0x32) State.reset)).readRegister 0x18 = 50 := by decide
theorem test_epcSnapshot : (after .epcSnapshot { State.reset with epoch := { EpochTimer.reset with count := 500 } }).readRegister
    0x1B = 0x01 := by decide
theorem test_registerWrite_range : (after (.registerWrite 0x74 16) State.reset).silim = 4 := by decide
theorem test_startDelimiter_disabled : after (.startDelimiter .A) State.reset = State.reset := by decide

set_option maxRecDepth 16000 in
/-- A DATA frame of node 5 with no item left out of the length check: an item count of 0 is a FORMAT error (R77). -/
theorem test_frame_count_zero :
    (after (.frameReceived .A ((buildFrame 0 5 kindData false 90 [0]).drop 1)) awaiting2).portA.counters.formatErrors = 1 := by
  decide

/-! What R75 says of a node that fails an obligation. -/

set_option maxRecDepth 16000 in
/-- DATA repeated without a repeat flag is a duplicate (R122). -/
theorem test_data_repeated :
    ((after (.frameReceived .A ((buildFrame 0 5 kindData false 77 [1, 3, 0]).drop 1)) awaiting2).node 2).duplicates = 1 := by
  decide

set_option maxRecDepth 16000 in
/-- An answer of the wrong kind is a mismatch, counted in format errors (R102). -/
theorem test_wrong_kind :
    (after (.frameReceived .A ((buildFrame 0 5 kindAck false 77 [3]).drop 1)) awaiting2).portA.counters.formatErrors = 1 := by
  decide

set_option maxRecDepth 16000 in
/-- The answer of another node is stray, and the wait goes on (R102). -/
theorem test_other_node :
    let t := after (.frameReceived .A ((buildFrame 0 6 kindData false 77 [1, 3, 0]).drop 1)) awaiting2
    t.portA.counters.stray = 1 ∧ t.portA.sequencer = .awaiting 100 := by decide

set_option maxRecDepth 16000 in
/-- An answer in the quiet interval is LATE (R104). -/
theorem test_late_answer :
    (after (.frameReceived .A ((buildFrame 0 5 kindData false 77 [1, 3, 0]).drop 1))
      (awaiting2.setPort .A { portUp with sequencer := .quiet (some 5) 9, deframer := .receiving [] })).portA.counters.late =
      1 := by decide

/-! ### The lines, bit time by bit time (R70, R76) -/

set_option maxRecDepth 16000 in
/-- C5h after 2 octet times of idle begins a frame. -/
theorem test_line_delimiter :
    (running.lineBits .A (List.replicate 20 true ++ octetLevels 0xC5)).portA.deframer = .receiving [] := by decide

set_option maxRecDepth 16000 in
/-- C5h after less idle is an ordinary octet. -/
theorem test_line_short_idle :
    (running.lineBits .A (List.replicate 19 true ++ octetLevels 0xC5)).portA.deframer = .hunting := by decide

set_option maxRecDepth 16000 in
/-- Least significant bit first: 01h is a low start bit, a high bit, seven low bits, a high stop bit. -/
theorem test_line_octet :
    (awaiting2.lineBits .A [false, true, false, false, false, false, false, false, false, true]).portA.deframer =
      .receiving [1] := by decide

set_option maxRecDepth 16000 in
/-- An octet error cuts the frame short, which is a FORMAT error. -/
theorem test_line_octet_error :
    (awaiting2.lineBits .A (List.replicate 10 false)).portA.counters.formatErrors = 1 := by decide

/-- At 1 Mbit/s, 4 idle steps to the bit: idle, the start bit of C5h, and its first two data bits. -/
theorem test_line_sending :
    [120, 44, 40, 36, 32].map (fun left => ({ portUp with sequencer := .sending [0xC5] 40 left } : PortState).txHigh) =
      [true, true, false, true, false] := by decide

set_option maxRecDepth 16000 in
/-- Step 5 of the worked sequence of 13: sequence 90 after 77 counts one gap and makes the entry PRESENT. -/
theorem test_frame_gap :
    ((after (.frameReceived .A ((buildFrame 0 5 kindData false 90 [1, 3, 0]).drop 1)) awaiting2).node 2).gaps = 1 := by
  decide
theorem test_grant_polls :
    (after (.grant .A) (running.setPort .A { portUp with dueList := [2] })).portA.transmitting.map (fun f => f.take 6) =
      some [0xC5, 5, 0, 1, 0, 0] := by decide
theorem test_transmitCompletion :
    (after (.transmitCompletion .A)
      (running.setPort .A { portUp with sequencer := .sending [0xC5] 40 0, transaction := some poll2 })).portA.sequencer =
      .awaiting 1600 := by decide
theorem test_timeout_counts : (after (.responseTimeoutExpiry .A) awaiting2).portA.counters.noReply = 1 := by decide
theorem test_quiet_ends :
    (after (.quietIntervalExpiry .A) (running.setPort .A { portUp with sequencer := .quiet none 3 })).portA.sequencer = .idle := by
  decide
theorem test_epochMark_counts : (after (.epochMark []) State.reset).epoch.count = 1 := by decide

set_option maxRecDepth 16000 in
/-- Step 5 of the worked example of 01: age 3 at stale limit 3. -/
theorem test_recordStale :
    ((after .recordStale (marked .captureTable (withRecord 5 { example5 with age := 2 }))).record 5).map (fun r => (r.state, r.age)) =
      some (.stale, 3) := by decide
theorem test_holdExpiry :
    (after .holdExpiry (marked .recordAccess
      { withRecord 5 { example5 with held := true } with holds := [⟨5, 4⟩], hlim := 5 })).holds = [] := by decide
set_option maxRecDepth 16000 in
theorem test_fallsDue : ((after .fallsDue (marked .nodeTable
    (running.setNode 2 { nodeAt 5 .present with countdown := 2 }))).node 2).countdown = 1 := by decide
theorem test_deadlineExpiry :
    (after .deadlineExpiry (marked .requestPool { State.reset with requests := [{ request30 with deadline := 1 }] })).completions =
      [⟨30, .expired, 0, 0⟩] := by decide
theorem test_crcWindowEnd :
    (after (.crcWindowEnd .A) (marked (.crcWindow .A)
      { running with crcw := 4, portA := { portUp with windowEpochs := 3, windowCrc := 4, fired := true } })).portA.fired = false := by
  decide
theorem test_releaseCountdownEnd :
    (after .releaseCountdownEnd (marked .inhibitUnit (inhIn (.releasing 1) State.reset))).inhAsserted = false := by decide

/-! ### Witnesses: states and operands that meet the hypotheses of the statements -/

/-- Every record in use, with the same content. -/
def fullOf (rec : Record) : State := { State.reset with records := Vector.replicate 48 (some rec) }

theorem withRecord_record {r : Nat} (rec : Record) (h : r < 48) (k : Nat) :
    (withRecord r rec).record k = if k = r then some rec else none := by
  rw [withRecord, State.record_setRecord]
  by_cases hk : k = r <;> simp [hk, h, State.record, State.reset]
  by_cases hlt : k < 48 <;> simp [hlt]

theorem fullOf_record (rec : Record) (k : Nat) : (fullOf rec).record k = if k < 48 then some rec else none := by
  by_cases h : k < 48 <;> simp [State.record, fullOf, h]

/-- Record 5 held with a shadow, queued, and the hold and the queue entry that go with it. -/
def held5 : State :=
  { withRecord 5 { example5 with held := true, shadow := some ⟨[9], 43⟩, queued := true } with
    holds := [⟨5, 4⟩], queue := [⟨5, 0x02⟩], hlim := 5 }

theorem held5_record (k : Nat) : held5.record k =
    if k = 5 then some { example5 with held := true, shadow := some ⟨[9], 43⟩, queued := true } else none :=
  withRecord_record _ (by decide) k

theorem witness_idle_stopped (s : State) (h : s = { State.reset with epoch := { EpochTimer.reset with period := none } }) :
    s.pending = [] ∧ s.marks = [] ∧ (∀ p, (s.port p).sequencer = .idle) ∧ s.epoch.period = none := by
  subst h; exact ⟨rfl, rfl, fun p => by cases p <;> rfl, rfl⟩

/-- The last step within the period of reset, and the boundary. -/
theorem witness_idle_running (k : Nat) :
    ({ State.reset with epoch := { EpochTimer.reset with elapsed := k } } : State).pending = [] ∧
      ∀ p, (({ State.reset with epoch := { EpochTimer.reset with elapsed := k } } : State).port p).sequencer = .idle :=
  ⟨rfl, fun p => by cases p <;> rfl⟩

/-- A port's timer that has run out and one that has not; one mark outstanding, and several. -/
theorem witness_idle_events :
    (({ running with portA := { portUp with sequencer := .awaiting 0 } } : State).port .A).sequencer = .awaiting 0 ∧
      (({ running with portA := { portUp with sequencer := .quiet none 1 } } : State).port .A).sequencer = .quiet none 1 ∧
      running.held = false ∧ running.pending = [] ∧ (marked .nodeTable running).marks = [.nodeTable] ∧
      ({ running with marks := MarkBlock.all } : State).marks ≠ [] ∧ running.resetFalls.held = true := by decide

theorem witness_spi_port : State.reset.held = false ∧ State.reset.pending = [] ∧ State.reset.host.csHigh = true ∧ ([] : List Bool).length < 8 ∧
    [true, true, true, true, true, true, true].length < 8 ∧ (0x01 : Addr) ∉ ownRowAddresses ∧
    State.reset.csFalls.host.csHigh = false ∧ State.reset.resetFalls.host.phase = .off := by decide

/-- A write transaction at an octet's beginning, and a command that waits. -/
theorem witness_spi_write :
    (let h : HostPort := { csHigh := false, sckHigh := false, phase := .write 0x7F [], out := bitsOf 0 }
     ({ running with host := h } : State).held = false ∧ ({ running with host := h } : State).pending = [] ∧
       ({ running with host := h } : State).host = h) ∧
    (after .flush { running with pending := [.softReset] }).held = false ∧
    (after .flush { running with pending := [.softReset] }).pending = [.softReset] := by decide

/-- A port that listens between two octets, one that does not, and one that sends. -/
theorem witness_line : awaiting2.pending = [] ∧ awaiting2.held = false ∧ (awaiting2.port .A).link ≠ .disabled ∧
    (awaiting2.port .A).isSending = false ∧ (awaiting2.port .A).receiver.bits = none ∧
    (awaiting2.port .B).link = .disabled ∧ portUp.isSending = false ∧ awaiting2.resetFalls.held = true := by decide
theorem witness_sending : (0 : Nat) < 4 ∧ 29 < 20 + 10 * [(0xC5 : Octet)].length ∧ 1 + (29 * 4 + 3) = (2 + 1) * (10 * 4) := by
  decide

theorem witness_illFormed : (Instr.grant .A).wellFormed = true ∧ 0x5A ∈ commandCodes ∧ 0x19 ∈ ownRowAddresses ∧
    exec (.badCommand 0x10) State.reset = .refused .notWellFormed := ⟨rfl, by decide, by decide, rfl⟩
theorem witness_spi : Instr.softReset.wellFormed = true ∧ Instr.softReset.cmdCode = some 0x5A ∧
    (Instr.badCommand 0xFF).wellFormed = true ∧ (Instr.badCommand 0xFF).cmdCode = some 0xFF := by decide
theorem witness_badCommand : (0x00 : Octet) ∉ commandCodes ∧ (0xFF : Octet) ∉ commandCodes := by decide
theorem witness_plain_write : (0x01 : Addr) ∉ ownRowAddresses ∧ (0x3F : Addr) ∉ ownRowAddresses ∧
    (0x78 : Addr) ∉ ownRowAddresses ∧ (0x7F : Addr) ∉ ownRowAddresses := by decide

theorem witness_nodeRemove_range : ((args State.reset 32 0 0 0).arg 0).toNat > 31 := by decide
theorem witness_nodeRemove_enabled : ((args (running.setNode 31 (nodeAt 5 .absent)) 31 0 0 0).arg 0).toNat ≤ 31 ∧
    ((args (running.setNode 31 (nodeAt 5 .absent)) 31 0 0 0).node 31).state ≠ .disabled := by decide

/-- Entry 3, the owner of record 5, DISABLED. -/
def removable (s : State) : State := args (s.setNode 3 (nodeAt 6 .disabled)) 3 0 0 0

theorem witness_nodeRemove_held : ((removable held5).node 3).state = .disabled ∧
    ∃ rec, some rec ∈ (removable held5).records ∧ rec.entry = 3 ∧ rec.held = true :=
  ⟨by decide, { example5 with held := true, shadow := some ⟨[9], 43⟩, queued := true },
    Vector.mem_toList_iff.mp (by decide), rfl, rfl⟩
theorem witness_nodeRemove_frees : ((removable (withRecord 5 example5)).node 3).state = .disabled ∧
    (∀ rec, some rec ∈ (removable (withRecord 5 example5)).records → rec.entry = 3 → rec.held = false) ∧
    (removable (withRecord 5 example5)).noneGated ∧
    (removable (withRecord 5 example5)).inh.isActive .dataStale = (removable (withRecord 5 example5)).dataStaleLevel :=
  ⟨by decide, fun rec h => (by decide : ∀ x ∈ (removable (withRecord 5 example5)).records.toList,
      ∀ rec ∈ x, rec.entry = 3 → rec.held = false) _ (Vector.mem_toList_iff.mpr h) rec rfl,
    fun p => by cases p <;> decide, by decide⟩

/-- Ports without a transaction, and without SENDING or AWAITING, are as they should be. -/
theorem portsOk_of_calm {s : State}
    (h : ∀ p, (s.port p).transaction = none ∧ (s.port p).isSending = false ∧ (s.port p).isAwaiting = false) : PortsOk s :=
  fun p => ⟨fun _ => (h p).1, fun _ _ t ht => by simp [(h p).1] at ht, fun hb => by simp [(h p).2] at hb, fun _ => (h p).1⟩

theorem witness_ports : PortsOk running ∧ PortsOk (removable (withRecord 5 example5)) ∧ PortsOk (removable held5) :=
  ⟨portsOk_of_calm fun p => by cases p <;> decide, portsOk_of_calm fun p => by cases p <;> decide,
    portsOk_of_calm fun p => by cases p <;> decide⟩

theorem witness_port_stop : PortsOk running ∧ PoolOk running ∧ running.noneGated :=
  ⟨witness_ports.1, ⟨by decide, by decide⟩, fun p => by cases p <;> decide⟩

/-- Port A awaiting its reply, port B in QUIET with a retry pending. -/
theorem witness_ports_busy :
    PortsOk { running with
      portA := { portUp with sequencer := .awaiting 1, transaction := some poll2 }
      portB := { portUp with sequencer := .quiet (some 5) 1, transaction := some { poll2 with retryPending := true } } } := by
  intro p
  cases p
  · exact ⟨fun h => by simp [State.port] at h, fun _ h => by simp [State.port, PortState.isAwaiting] at h,
      fun _ => ⟨poll2, rfl, rfl⟩, fun h => by simp [State.port, portUp] at h⟩
  · refine ⟨fun h => by simp [State.port] at h, fun _ _ t h => ?_, fun h => ?_, fun h => by simp [State.port, portUp] at h⟩
    · simp only [State.port, Option.some.injEq] at h
      subst h
      rfl
    · simp [State.port, PortState.isSending, PortState.isAwaiting] at h

theorem witness_waiting : WaitingOk running.resetFalls ∧ WaitingOk { running with marks := MarkBlock.all } :=
  ⟨⟨by decide, fun _ => rfl⟩, ⟨by decide, fun h => by simp [running, State.setNode, State.reset] at h⟩⟩

theorem witness_both_marks : MarkBlock.captureTable ∈ ({ running with marks := MarkBlock.all } : State).marks ∧
    ({ running with marks := MarkBlock.all } : State).marks.Nodup := by decide

theorem witness_inh_asserted : InhibitOk State.reset.inh := ⟨by decide, fun n h => by cases h⟩
theorem witness_inh_clear : InhibitOk (inhIn .clear State.reset).inh := ⟨by decide, fun n h => by cases h⟩
theorem witness_inh_awaitingAck : InhibitOk (inhIn .awaitingAck State.reset).inh := ⟨by decide, fun n h => by cases h⟩
theorem witness_inh_releasing : InhibitOk (inhIn (.releasing 1) State.reset).inh ∧
    InhibitOk (inhIn (.releasing 255) State.reset).inh :=
  ⟨⟨by decide, fun n h => by cases h; decide⟩, ⟨by decide, fun n h => by cases h; decide⟩⟩

/-- A request waits on each idle port, neither of them gated. -/
theorem witness_noneGated : State.noneGated { running with requests := [request30], portB := portUp } :=
  fun p => by cases p <;> decide

/-- Port A awaits the reply of a marked attempt of `t`. -/
def heardIn (t : Transaction) : State :=
  running.setPort .A { portUp with sequencer := .awaiting 1, transaction := some t, heard := true }

/-- A write of `request30` in flight. -/
def write30 : Transaction := { poll2 with work := .request 30 3, entry := some 2 }

theorem witness_poll_reply (lost : Bool) :
    let t := { poll2 with entryLost := lost }
    ((heardIn t).port .A).heard = true ∧ ((heardIn t).port .A).transaction = some t ∧
      ((heardIn t).port .A).sequencer = .awaiting 1 ∧ t.work = .poll ∧ t.entry = some 2 ∧ t.awaited = some 5 :=
  ⟨rfl, rfl, rfl, rfl, rfl, rfl⟩
theorem witness_write_reply :
    ((heardIn write30).port .A).transaction = some write30 ∧ ((heardIn write30).port .A).heard = true ∧
      write30.awaited = some 5 ∧ write30.awaited ≠ some 6 ∧ write30.work = .request 30 3 := by decide

theorem witness_failed_request : write30.work = .request 30 3 ∧ poll2.work = .poll ∧ poll2.entry = some 2 ∧
    poll2.entryLost = false ∧ poll2.firstInDown = false ∧ { poll2 with firstInDown := true }.firstInDown = true ∧
    { poll2 with entryLost := true }.entryLost = true := by decide

theorem witness_tags_apart : ([request30, { request30 with tag := 31 }].map fun q => q.tag).Nodup := by decide
theorem witness_grant_frames :
    ([request30].find? fun x : Request => x.tag = 30) = some request30 ∧ poll2.awaited = some 5 ∧ 1 ≤ poll2.made ∧
      write30.work = .request 30 3 := by decide

theorem witness_no_mark : MarkBlock.captureTable ∉ State.reset.marks ∧ MarkBlock.recordAccess ∉ State.reset.marks ∧
    MarkBlock.inhibitUnit ∉ State.reset.marks := by decide
theorem witness_record_mark : InhibitOk (marked .captureTable held5).inh ∧
    MarkBlock.captureTable ∈ (marked .captureTable held5).marks := ⟨witness_inh_asserted, by decide⟩
theorem witness_crc_mark (p : Port) : MarkBlock.crcWindow p ∈ (marked (.crcWindow p) running).marks := by
  cases p <;> decide
theorem witness_release_mark : InhibitOk (marked .inhibitUnit (inhIn (.releasing 1) State.reset)).inh ∧
    MarkBlock.inhibitUnit ∈ (marked .inhibitUnit (inhIn (.releasing 1) State.reset)).marks :=
  ⟨witness_inh_releasing.1, by decide⟩
theorem witness_pool_mark :
    PoolOk (marked .requestPool { State.reset with requests := [{ request30 with deadline := 1 }] }) ∧
      MarkBlock.requestPool ∈ (marked .requestPool State.reset).marks := ⟨⟨by decide, by decide⟩, by decide⟩

/-- Both ports idle, and the oldest request of A, of B, or of both at its last epoch. -/
def expiring (a b : Nat) : State :=
  { running with
    portB := portUp
    marks := [.requestPool]
    requests := [{ request30 with deadline := a }, { request30 with tag := 31, port := .B, deadline := b }] }

theorem witness_deadlines : PoolOk (expiring 1 1) ∧ PoolOk (expiring 2 2) ∧
    ∀ p, ((expiring 1 1).port p).link ≠ .disabled ∧ ((expiring 1 1).port p).sequencer = .idle :=
  ⟨⟨by decide, by decide⟩, ⟨by decide, by decide⟩, fun p => by cases p <;> decide⟩

/-- Both sequencers in QUIET, entry 2 about to fall due. -/
def quietPorts : State :=
  marked .nodeTable ({ running with
    portA := { portUp with sequencer := .quiet none 3 }, portB := { portUp with sequencer := .awaiting 1 } } : State)

theorem witness_due_mark : MarkBlock.nodeTable ∈ quietPorts.marks ∧ ∀ p, (quietPorts.port p).sequencer ≠ .idle :=
  ⟨by decide, fun p => by cases p <;> decide⟩

theorem witness_holds : HoldsOk (marked .recordAccess held5) ∧
    MarkBlock.captureTable ∉ (marked .recordAccess held5).marks ∧
    MarkBlock.recordAccess ∈ (marked .recordAccess held5).marks := by
  have key : ∀ k, (marked .recordAccess held5).record k = held5.record k := fun _ => rfl
  refine ⟨⟨by decide, by decide, ?_, ?_, ?_⟩, by decide, by decide⟩
  · intro h hh
    have : h = ⟨5, 4⟩ := by simpa [marked, held5] using hh
    subst this
    exact ⟨_, (key 5).trans (held5_record 5)⟩
  · intro r rec h
    rw [key, held5_record] at h
    split at h
    · cases h; subst_vars; simp [marked, held5]
    · cases h
  · intro r rec h _
    rw [key, held5_record] at h
    split at h
    · cases h; rfl
    · cases h

theorem witness_queue : QueueOk held5 := by
  refine ⟨by decide, by decide, ?_, ?_⟩
  · intro e he
    have : e = ⟨5, 0x02⟩ := by simpa [held5] using he
    subst this
    exact ⟨_, held5_record 5⟩
  · intro r rec h
    rw [held5_record] at h
    split at h
    · cases h; subst_vars; simp [held5]
    · cases h

theorem witness_keys : KeysOk held5 := by
  intro r r' rec rec' h h' _ _
  rw [held5_record] at h h'
  split at h <;> split at h' <;> simp_all

theorem witness_invariant_step : PoolOk held5 ∧ ∃ t, step { held5 with pending := [.popChange] } = .next t :=
  ⟨⟨by decide, by decide⟩, _, rfl⟩
theorem witness_hardReset_step : ∃ t, exec .hardReset held5 = .next t := ⟨_, rfl⟩

/-- A released unit beside port A with a gated request, and port B with one where `both`. -/
def fallen (a b : Bool) : State :=
  { inhIn .clear running with
    portB := portUp
    requests := [{ request30 with gated := a }, { request30 with tag := 31, port := .B, gated := b }] }

/-- The ports whose oldest WAITING request is gated, as the statement about a fall of INH asks for them. -/
def gatedIn (t : State) (p : Port) : Bool :=
  decide ((t.port p).link ≠ .disabled ∧ (t.port p).sequencer = .idle) &&
    (t.requests.find? fun q : Request => q.port = p && q.state = .waiting).any fun q => q.gated

theorem witness_fall (a b : Bool) : running.inhAsserted = true ∧ (fallen a b).inhAsserted = false ∧
    gatedIn (fallen a b) .A = a ∧ gatedIn (fallen a b) .B = b := by cases a <;> cases b <;> decide

/-- A filter that captures type 12 of every address of both ports. -/
def capture12 : Filter :=
  { enabled := true, portMatch := .either, addressLow := 1, addressHigh := 62, typeValue := 12, typeMask := 0x7F,
    action := .capture, policy := .onUpdate, staleLimit := 3, inhibit := true, pinOnAllocate := false }

/-- The tests of a filter on an item of entry `n`, as the statement about classification writes them. -/
abbrev passes (f : Filter) (n : NodeEntry) (t : ItemType) : Prop :=
  f.enabled = true ∧ (f.portMatch = .either ∨ f.portMatch = .only n.port) ∧ f.addressLow ≤ n.address ∧
    n.address ≤ f.addressHigh ∧ ∀ b < 7, f.typeMask.getLsbD b = true → t.getLsbD b = f.typeValue.getLsbD b

theorem witness_filter_first : passes (({ running with filters := running.filters.setIfInBounds 0 capture12 } : State).filter 0)
    (nodeAt 1 .present) 12 := by decide
theorem witness_filter_last :
    passes (({ running with filters := running.filters.setIfInBounds 15 capture12 } : State).filter 15)
      (nodeAt 62 .present) 12 ∧
    ∀ j < 15, ¬passes (({ running with filters := running.filters.setIfInBounds 15 capture12 } : State).filter j)
      (nodeAt 62 .present) 12 := by decide
theorem witness_filter_none : ∀ i < 16, ¬passes (running.filter i) (nodeAt 5 .present) 12 := by decide

theorem witness_arrival_update :
    held5.record 5 = some { example5 with held := true, shadow := some ⟨[9], 43⟩, queued := true } ∧
    (withRecord 5 example5).record 5 = some example5 ∧ example5.entry = 3 ∧ example5.itemType = 12 := by decide

/-- No record has the key of entry 4: record 0 FREE; record 1 the lowest FREE one. -/
theorem witness_arrival_free :
    (∀ r rec, (withRecord 0 example5).record r = some rec → rec.entry ≠ 4 ∨ rec.itemType ≠ 12) ∧
      (withRecord 0 example5).record 1 = none ∧ ∀ j < 1, (withRecord 0 example5).record j ≠ none := by
  refine ⟨?_, by decide, by decide⟩
  intro r rec h
  rw [withRecord_record _ (by decide)] at h
  split at h
  · cases h; exact Or.inl (by decide)
  · cases h

/-- In a table of STALE records of one age record 0 is the victim. -/
theorem witness_arrival_victim :
    let s := fullOf { example5 with state := .stale, age := 3 }
    (∀ r rec, s.record r = some rec → rec.entry ≠ 4 ∨ rec.itemType ≠ 12) ∧ (∀ r < 48, s.record r ≠ none) ∧
      s.record 0 = some { example5 with state := .stale, age := 3 } ∧
      ∀ j other, s.record j = some other → other.age < 3 ∨ (other.age = 3 ∧ 0 ≤ j) := by
  intro s
  have key := fullOf_record { example5 with state := .stale, age := 3 }
  refine ⟨?_, ?_, key 0, ?_⟩
  · intro r rec h
    rw [key] at h
    split at h
    · cases h; exact Or.inl (by decide)
    · cases h
  · intro r hr; rw [key, if_pos hr]; simp
  · intro j other h
    rw [key] at h
    split at h
    · cases h; exact Or.inr ⟨rfl, Nat.zero_le _⟩
    · cases h

/-- In a table of LIVE records an item of entry 4 finds no victim. -/
theorem witness_arrival_drop :
    (∀ r < 48, (fullOf example5).record r ≠ none) ∧
      ∀ r rec, (fullOf example5).record r = some rec → rec.entry ≠ 4 ∧ rec.state = .live := by
  refine ⟨fun r hr => by rw [fullOf_record, if_pos hr]; simp, ?_⟩
  intro r rec h
  rw [fullOf_record] at h
  split at h
  · cases h; decide
  · cases h

/-- One item of no payload, and four that fill a body. -/
theorem witness_items :
    let one : List Item := [⟨12, []⟩]
    let four : List Item := [⟨1, List.replicate 24 7⟩, ⟨2, List.replicate 24 7⟩, ⟨3, List.replicate 24 7⟩, ⟨127, List.replicate 15 7⟩]
    ∀ items ∈ [one, four], 1 ≤ items.length ∧ items.length ≤ 4 ∧ (∀ i ∈ items, i.itemType ≠ 0 ∧ i.payload.length ≤ 24) ∧
      (items.map fun i => i.itemType).Nodup ∧
      ((items.flatMap fun i => i.itemType.setWidth 8 :: octetOf i.payload.length :: i.payload).length + 1 ≤ 96) := by
  decide
/-- A kind that is not read, sources 0 and 63, item counts 0 and 5, a repeated type, a length above 24, and reason 0. -/
theorem witness_bad_frames : ¬((0x01 : Octet) &&& 0x0F = 0x02) ∧ (0x40 : Octet) &&& 0x3F = 0 ∧ (0xFF : Octet) &&& 0x3F = 63 ∧
    (5 : Octet).toNat > 4 ∧ ¬([3, 3] : List ItemType).Nodup ∧ 24 < (List.replicate 25 (0 : Octet)).length ∧
    (0x80 : Octet) &&& 0x7F = 0 := by decide
set_option maxRecDepth 16000 in
theorem witness_wrong_check : crc ([0x00, 0x3E, 0x04, 0x00, 0x01, 0x03] ++ [0, 0]) ≠ 0 := by decide

end Sys2Proof.Machine.Tests
end

section
/-! PROOF. The inhibit unit: one rule for every change of its conditions and its mask (R171, R172, R177). -/

namespace Sys2Proof.Machine

/-! ### The inhibit unit -/

/-- The unit as given, with the INHIBIT event where the level of INH changes by it (R177). -/
def State.inhBecomes (s : State) (u : InhibitUnit) : State :=
  { s with
    inh := u
    sticky := if u.state.inhAsserted = s.inh.state.inhAsserted then s.sticky else s.sticky ||| eventInhibit }

theorem State.inhSettled_eq_inhBecomes (s : State) (active mask : Octet) :
    s.inhSettled active mask = s.inhBecomes (s.inh.settled active mask s.epoch16) := rfl

theorem State.inhBecomes_self (s : State) : s.inhBecomes s.inh = s := by simp [State.inhBecomes]

@[simp] theorem InhibitState.inhAsserted_clear : InhibitState.clear.inhAsserted = false := rfl

@[simp] theorem InhibitState.inhAsserted_asserted : InhibitState.asserted.inhAsserted = true := rfl

theorem InhibitState.inhAsserted_iff (k : InhibitState) : k.inhAsserted = true ↔ k ≠ .clear := by
  cases k <;> simp [InhibitState.inhAsserted]

/-- A release decision in ASSERTED: the next state by the table of R172. -/
theorem State.releaseDecision_eq {s : State} (h : s.inh.state = .asserted) :
    s.releaseDecision = s.inhBecomes { s.inh with state := releasedState s.inh.mode s.inh.delay } := by
  unfold State.releaseDecision releasedState State.inhBecomes
  cases s.inh.mode with
  | manual => simp [h, InhibitState.inhAsserted]
  | auto =>
    dsimp only
    split <;> simp [h, InhibitState.inhAsserted, State.inhRelease, State.raise]

/-- Out of ASSERTED, INH falls where the unit becomes CLEAR (R177). -/
theorem State.inhBecomes_sticky {s : State} (h : s.inh.state = .asserted) (u : InhibitUnit) :
    (s.inhBecomes u).sticky = if u.state = .clear then s.sticky ||| eventInhibit else s.sticky := by
  unfold State.inhBecomes
  by_cases hu : u.state = .clear
  · simp [h, hu]
  · simp [h, hu, (InhibitState.inhAsserted_iff _).mpr hu]

/-- A condition that becomes effective: ASSERTED, with the first-cause record taken in CLEAR (R171, R176). -/
theorem State.inhAssert_eq (s : State) (c : Condition) :
    s.inhAssert c = s.inhBecomes
      { s.inh with
        state := .asserted
        firstCause := if s.inh.state = .clear then c else s.inh.firstCause
        firstEpoch := if s.inh.state = .clear then s.epoch16 else s.inh.firstEpoch } := by
  unfold State.inhAssert State.inhBecomes
  split
  · simp [*, State.raise, State.epoch16]
  · rename_i h
    simp [(InhibitState.inhAsserted_iff _).mpr h]

/-- The unit's rule (R171, R172) on a change of its conditions and mask, for a unit that obeys R170. -/
theorem State.inhSettle_eq_inhSettled {s : State} (h : InhibitOk s.inh) {active mask newly : Octet}
    (hn : newly = active &&& mask &&& ~~~s.inh.effective) :
    ({ s with inh := { s.inh with active := active, mask := mask } } : State).inhSettle newly =
      s.inhSettled active mask := by
  rw [State.inhSettled_eq_inhBecomes]
  unfold State.inhSettle InhibitUnit.settled
  by_cases hnew : newly = 0
  · rw [if_neg (not_not.mpr hnew)]
    by_cases heff : active &&& mask = 0
    · rw [if_neg (not_not.mpr heff)]
      by_cases hk : s.inh.state = .asserted
      · rw [if_pos ⟨hk, heff⟩, if_pos hk]
        exact State.releaseDecision_eq (s := { s with inh := { s.inh with active := active, mask := mask } }) hk
      · rw [if_neg (fun x => hk x.1), if_neg hk]
        exact (State.inhBecomes_self _).symm
    · have hk : s.inh.state = .asserted := by
        rw [h.asserted_iff]
        intro he
        rw [he, hnew, show ~~~(0 : Octet) = BitVec.allOnes 8 from rfl, BitVec.and_allOnes] at hn
        exact heff hn.symm
      rw [if_neg (fun x => heff x.2), if_pos heff]
      simp only [hk, reduceCtorEq, if_false]
      rw [← hk]
      exact (State.inhBecomes_self _).symm
  · have heff : active &&& mask ≠ 0 := by
      intro he
      rw [he] at hn
      exact hnew (by simpa using hn)
    rw [if_pos hnew, if_pos heff, State.inhAssert_eq, hn]
    rfl

/-- A unit that obeys R170 stays as it is while its conditions and mask do. -/
theorem State.inhSettled_self {s : State} (h : InhibitOk s.inh) : s.inhSettled s.inh.active s.inh.mask = s := by
  rw [← State.inhSettle_eq_inhSettled (newly := 0) h (by simp [InhibitUnit.effective])]
  unfold State.inhSettle
  rw [if_neg (by simp), if_neg]
  exact fun x => h.asserted_iff.mp x.1 x.2

/-- The condition set with one member holds that member alone. -/
theorem Condition.getLsbD_bit (c : Condition) {i : Nat} (hi : i < 8) : c.bit.getLsbD i = decide (i = c.number) := by
  revert i
  cases c <;> decide

/-- A condition set with one of its members added, or one that it lacks taken away, is as it was. -/
theorem InhibitUnit.active_same {u : InhibitUnit} {c : Condition} {on : Bool} (h : u.isActive c = on) :
    (if on then u.active ||| c.bit else u.active &&& ~~~c.bit) = u.active := by
  unfold InhibitUnit.isActive at h
  cases on
  all_goals
    refine BitVec.eq_of_getLsbD_eq fun i hi => ?_
    by_cases e : i = c.number
    · subst e
      simp only [Bool.false_eq_true, if_true, if_false, BitVec.getLsbD_or, BitVec.getLsbD_and, h, Bool.false_and,
        Bool.true_or]
    · simp only [Bool.false_eq_true, if_true, if_false, BitVec.getLsbD_or, BitVec.getLsbD_and, BitVec.getLsbD_not, hi,
        c.getLsbD_bit hi, e,
        decide_false, decide_true, Bool.not_false, Bool.and_true, Bool.or_false]

/-- What becomes effective where a condition becomes active (R171). -/
theorem InhibitUnit.newly_of_on {u : InhibitUnit} {c : Condition} (h : u.isActive c = false) :
    c.bit &&& u.mask = (u.active ||| c.bit) &&& u.mask &&& ~~~u.effective := by
  unfold InhibitUnit.isActive at h
  refine BitVec.eq_of_getLsbD_eq fun i hi => ?_
  simp only [InhibitUnit.effective, BitVec.getLsbD_or, BitVec.getLsbD_and, BitVec.getLsbD_not, hi, c.getLsbD_bit hi]
  by_cases e : i = c.number
  · subst e; simp [h]
  · cases u.active.getLsbD i <;> simp [e]

/-- Nothing becomes effective where conditions become inactive (R172). -/
theorem InhibitUnit.newly_of_off (u : InhibitUnit) (set : Octet) :
    0 = u.active &&& ~~~set &&& u.mask &&& ~~~u.effective := by
  refine BitVec.eq_of_getLsbD_eq fun i hi => ?_
  simp only [InhibitUnit.effective, BitVec.getLsbD_and, BitVec.getLsbD_not, hi]
  cases u.active.getLsbD i <;> cases u.mask.getLsbD i <;> simp

/-- What becomes effective where the mask changes (R169, R171). -/
theorem InhibitUnit.newly_of_mask (u : InhibitUnit) (v : Octet) :
    u.active &&& v &&& ~~~u.mask = u.active &&& v &&& ~~~u.effective := by
  refine BitVec.eq_of_getLsbD_eq fun i hi => ?_
  simp only [InhibitUnit.effective, BitVec.getLsbD_and, BitVec.getLsbD_not, hi]
  cases u.active.getLsbD i <;> simp

/-- A report to a unit that obeys R170 acts by R171 or R172 (R165). -/
theorem State.setCondition_eq_inhSettled {s : State} (h : InhibitOk s.inh) (c : Condition) (on : Bool) :
    s.setCondition c on =
      s.inhSettled (if on then s.inh.active ||| c.bit else s.inh.active &&& ~~~c.bit) s.inh.mask := by
  unfold State.setCondition
  by_cases hc : s.inh.isActive c = on
  · rw [if_pos hc, InhibitUnit.active_same hc, State.inhSettled_self h]
  · rw [if_neg hc]
    cases on with
    | true => exact State.inhSettle_eq_inhSettled h (InhibitUnit.newly_of_on (by simpa using hc))
    | false => exact State.inhSettle_eq_inhSettled h (InhibitUnit.newly_of_off _ _)

theorem afterInhibit_self (s : State) : afterInhibit s s = s := by simp [afterInhibit]

/-- A write to INHM of a unit that obeys R170 acts by R171 or R172 on the new mask (R169). -/
theorem State.writeMask_eq {s : State} (h : InhibitOk s.inh) (v : Octet) :
    s.writeMask v = afterInhibit s (s.inhSettled s.inh.active v) := by
  unfold State.writeMask
  split
  · rename_i hv
    rw [hv, State.inhSettled_self h, afterInhibit_self]
  · rw [State.inhSettle_eq_inhSettled h (s.inh.newly_of_mask v)]

/-! ### Levels -/

/-- DATA_STALE while an in-use record counts toward it (R24). -/
theorem State.dataStaleLevel_iff (s : State) :
    s.dataStaleLevel = true ↔ ∃ r rec, s.record r = some rec ∧ rec.untrusted = true := by
  simp only [State.dataStaleLevel, List.any_eq_true, Vector.mem_toList_iff, Option.any_eq_true]
  constructor
  · rintro ⟨o, ho, rec, rfl, hu⟩
    obtain ⟨r, hr, he⟩ := Vector.mem_iff_getElem.mp ho
    exact ⟨r, rec, by rw [s.record_eq_getElem hr, he], hu⟩
  · rintro ⟨r, rec, hr, hu⟩
    have hlt := s.record_some_lt hr
    rw [s.record_eq_getElem hlt] at hr
    exact ⟨_, Vector.getElem_mem hlt, rec, hr, hu⟩

theorem Record.untrusted_iff (rec : Record) :
    rec.untrusted = true ↔ rec.inhibit = true ∧ (rec.state = .stale ∨ rec.state = .orphan) := by
  cases h : rec.state <;> simp [Record.untrusted, h]

/-- NODE_LOST while an ABSENT entry has the inhibit field (R133). -/
theorem State.nodeLostLevel_iff (s : State) :
    s.nodeLostLevel = true ↔ ∃ e < 32, (s.node e).state = .absent ∧ (s.node e).inhibit = true := by
  have node_eq : ∀ e (h : e < 32), s.node e = s.nodes[e] := fun e h => by simp [State.node, h]
  simp only [State.nodeLostLevel, List.any_eq_true, Vector.mem_toList_iff, Bool.and_eq_true, decide_eq_true_eq]
  constructor
  · rintro ⟨n, hn, hi, ha⟩
    obtain ⟨e, he, rfl⟩ := Vector.mem_iff_getElem.mp hn
    exact ⟨e, he, by rw [node_eq e he]; exact ⟨ha, hi⟩⟩
  · rintro ⟨e, he, ha, hi⟩
    rw [node_eq e he] at ha hi
    exact ⟨_, Vector.getElem_mem he, hi, ha⟩

/-! ### Reports that make a condition active -/

/-- The unit's rule keeps R170. -/
theorem InhibitUnit.settled_ok {u : InhibitUnit} (h : InhibitOk u) (active mask : Octet) (epoch : Word16) :
    InhibitOk (u.settled active mask epoch) := by
  unfold InhibitUnit.settled
  split
  · rename_i he
    exact ⟨by simpa [InhibitUnit.effective] using he, fun n hn => by simp at hn⟩
  · rename_i he
    rw [not_not] at he
    by_cases hk : u.state = .asserted
    · constructor
      · simp only [InhibitUnit.effective, he, hk, if_true]
        unfold releasedState
        split
        · simp
        · split <;> simp
      · intro n hn
        simp only [hk, if_true, releasedState] at hn
        split at hn
        · cases hn
        · split at hn
          · cases hn
          · rename_i hd
            cases hn
            have : u.delay.toNat ≠ 0 := fun x => hd (BitVec.eq_of_toNat_eq x)
            have := u.delay.isLt
            omega
    · exact ⟨by simp [InhibitUnit.effective, he, hk], fun n hn => h.countdown n (by simpa [hk] using hn)⟩

theorem InhibitUnit.settled_active (u : InhibitUnit) (active mask : Octet) (epoch : Word16) :
    (u.settled active mask epoch).active = active := by
  unfold InhibitUnit.settled
  split <;> rfl

theorem State.setCondition_ok {s : State} (h : InhibitOk s.inh) (c : Condition) (on : Bool) :
    InhibitOk (s.setCondition c on).inh := by
  rw [State.setCondition_eq_inhSettled h]
  exact InhibitUnit.settled_ok h _ _ _

/-- A report gives the condition its level (R165). -/
theorem State.isActive_setCondition {s : State} (h : InhibitOk s.inh) (c : Condition) (on : Bool) :
    (s.setCondition c on).inh.isActive c = on := by
  have hlt : c.number < 8 := by cases c <;> decide
  rw [State.setCondition_eq_inhSettled h]
  unfold InhibitUnit.isActive
  rw [show (s.inhSettled _ s.inh.mask).inh = s.inh.settled _ s.inh.mask s.epoch16 from rfl, InhibitUnit.settled_active]
  cases on <;> simp [c.getLsbD_bit hlt]

/-- A level reported twice is reported once (R165). -/
theorem State.setCondition_setCondition {s : State} (h : InhibitOk s.inh) (c : Condition) (on : Bool) :
    (s.setCondition c on).setCondition c on = s.setCondition c on := by
  have := (s.setCondition c on).setCondition_same c
  rwa [State.isActive_setCondition h] at this

/-- A condition that becomes active lets INH fall nowhere, so that it starts no arbiter (R171). -/
theorem State.report_true {s : State} (h : InhibitOk s.inh) (c : Condition) :
    s.report c true = s.setCondition c true := by
  unfold State.report afterInhibit
  refine if_neg ?_
  rw [State.setCondition_eq_inhSettled h, if_pos rfl]
  unfold State.inhAsserted State.inhSettled InhibitUnit.settled
  by_cases he : (s.inh.active ||| c.bit) &&& s.inh.mask = 0
  · have hk : s.inh.state ≠ .asserted := by
      rw [Ne, h.asserted_iff, not_not]
      refine BitVec.eq_of_getLsbD_eq fun i hi => ?_
      have := congrArg (fun x : Octet => x.getLsbD i) he
      simp only [BitVec.getLsbD_and, BitVec.getLsbD_or] at this
      simp only [InhibitUnit.effective, BitVec.getLsbD_and]
      cases ha : s.inh.active.getLsbD i <;> simp_all
    simp [he, hk]
  · simp only [ne_eq, he, not_false_eq_true, if_true, InhibitState.inhAsserted_asserted, Bool.not_true, Bool.and_false,
      Bool.false_eq_true]

end Sys2Proof.Machine
end

section
/-! PROOF. The capture table and its change queue as single commands and arrivals change them. -/

namespace Sys2Proof.Machine

/-! ### The capture table and the change queue -/

/-- An event of the record with these causes goes to the change queue (R9, R23). -/
def Record.tells (rec : Record) (causes : BitVec 5) : Bool := decide (rec.policy ≠ .silent ∧ causes ≠ 0)

theorem Record.tells_iff (rec : Record) (c : BitVec 5) : rec.tells c = true ↔ ¬(rec.policy = .silent ∨ c = 0) := by
  simp [Record.tells]

/-- Two tables with the same record at every index are the same. -/
theorem State.records_ext {s t : State} (h : ∀ r < 48, s.record r = t.record r) : s.records = t.records :=
  Vector.ext fun r hr => by rw [← s.record_eq_getElem hr, ← t.record_eq_getElem hr, h r hr]

/-- A record that is written, with a notice of its event (R9, R23, R31, R32). -/
theorem State.setRecord_notify (s : State) {r : Nat} (hr : r < 48) (rec : Record) (c : BitVec 5) :
    (s.setRecord r (some rec)).notify r c =
      { s with
        records := s.records.setIfInBounds r (some { rec with queued := rec.queued || rec.tells c })
        queue :=
          if rec.tells c then (if rec.queued then mergeCauses r c s.queue else s.queue ++ [⟨r, c⟩]) else s.queue } := by
  have hrec : (s.setRecord r (some rec)).record r = some rec := s.record_setRecord_same _ hr
  unfold State.notify
  rw [hrec]
  dsimp only
  cases ht : rec.tells c with
  | false =>
    have hsilent : rec.policy = .silent ∨ c = 0 := by
      by_contra h
      simp [(rec.tells_iff c).mpr h] at ht
    rw [if_pos hsilent, Bool.or_false]
    rfl
  | true =>
    rw [if_neg ((rec.tells_iff c).mp ht), Bool.or_true, if_pos rfl]
    unfold State.join
    rw [hrec]
    dsimp only
    cases hq : rec.queued with
    | true =>
      rw [← hq]
      simp only [if_true]
      rfl
    | false => simp [State.setRecord]

/-- Freeing several records: they become FREE and their queue entries go (R18, R22). -/
theorem foldl_freeRecord (l : List Nat) (s : State) :
    l.foldl State.freeRecord s =
      { s with
        records := (l.foldl State.freeRecord s).records
        queue := s.queue.filter fun e => decide (e.record ∉ l) } := by
  induction l generalizing s with
  | nil => simp
  | cons r l ih =>
    rw [List.foldl_cons, ih]
    have hq : (s.freeRecord r).queue.filter (fun e => decide (e.record ∉ l)) =
        s.queue.filter fun e => decide (e.record ∉ r :: l) := by
      rw [State.freeRecord, State.setRecord_queue, State.unqueue_queue, List.filter_filter]
      refine List.filter_congr fun e _ => ?_
      by_cases h : e.record = r <;> simp [h]
    rw [hq]
    rfl

theorem State.mem_flushable (s : State) (r : Nat) :
    r ∈ s.flushable ↔ ∃ rec, s.record r = some rec ∧ rec.pinned = false ∧ rec.held = false := by
  simp only [State.flushable, recordIndices, List.mem_filter, List.mem_range, Config.recordCount, Option.any_eq_true,
    Bool.and_eq_true, Bool.not_eq_true']
  constructor
  · exact fun h => h.2
  · rintro ⟨rec, hrec, h⟩
    exact ⟨s.record_some_lt hrec, rec, hrec, h⟩

/-- Freeing an in-use record, with the report where it counted toward DATA_STALE (R18, R24). -/
theorem State.freeReporting_eq {s : State} {r : Nat} {rec : Record} (h : s.record r = some rec) :
    s.freeReporting r =
      if rec.inhibit = true ∧ rec.state ≠ .live then (s.freeRecord r).reportDataStale else s.freeRecord r := by
  unfold State.freeReporting
  simp [h, Record.untrusted]

/-! ### Arrivals -/

/-- A key that no record has is not found (R2). -/
theorem State.findRecord_none {s : State} {e : Nat} {t : ItemType}
    (h : ∀ r rec, s.record r = some rec → rec.entry ≠ e ∨ rec.itemType ≠ t) : s.findRecord e t = none := by
  refine List.find?_eq_none.mpr fun r _ hx => ?_
  cases hr : s.record r with
  | none => simp [hr] at hx
  | some rec =>
    simp only [hr, Option.any_some, Bool.and_eq_true, decide_eq_true_eq] at hx
    exact (h r rec hr).elim (· hx.1) (· hx.2)

/-- A key is found at its one record (R2). -/
theorem State.findRecord_some {s : State} (hk : KeysOk s) {r : Nat} {rec : Record} (hr : s.record r = some rec) :
    s.findRecord rec.entry rec.itemType = some r := by
  cases hf : s.findRecord rec.entry rec.itemType with
  | none =>
    have := List.find?_eq_none.mp hf r (List.mem_range.mpr (s.record_some_lt hr))
    simp [hr] at this
  | some r' =>
    have hx := List.find?_some hf
    cases hr' : s.record r' with
    | none => simp [hr'] at hx
    | some rec' =>
      simp only [hr', Option.any_some, Bool.and_eq_true, decide_eq_true_eq] at hx
      rw [hk r' r rec' rec hr' hr hx.1 hx.2]

/-- The lowest-numbered FREE record (R5). -/
theorem State.freeIndex_some {s : State} {r : Nat} (hr : r < 48) (h : s.record r = none)
    (hlow : ∀ j < r, s.record j ≠ none) : s.freeIndex = some r :=
  List.find?_range_eq_some.mpr ⟨by simp [h], List.mem_range.mpr hr, fun j hj => by
    simpa [Option.isSome_iff_ne_none] using hlow j hj⟩

/-- A full table has no FREE record (R5). -/
theorem State.freeIndex_none {s : State} (h : ∀ r < 48, s.record r ≠ none) : s.freeIndex = none :=
  List.find?_eq_none.mpr fun r hr => by
    simpa [Option.isNone_iff_eq_none] using h r (List.mem_range.mp hr)

/-- The best eviction candidate among the first `n` records: the oldest, and the lowest-numbered of equals (R6). -/
def State.BestVictim (s : State) (n : Nat) : Option (Nat × Nat) → Prop
  | none => ∀ j < n, ∀ rec, s.record j = some rec → rec.evictable = false
  | some (b, age) =>
    (b < n ∧ ∃ rec, s.record b = some rec ∧ rec.evictable = true ∧ rec.age = age) ∧
      ∀ j < n, ∀ rec, s.record j = some rec → rec.evictable = true → rec.age < age ∨ (rec.age = age ∧ b ≤ j)

/-- One comparison of the search keeps the best candidate (R6). -/
theorem State.bestVictim_succ {s : State} {n : Nat} {best : Option (Nat × Nat)} (h : s.BestVictim n best) :
    s.BestVictim (n + 1) (betterVictim s best n) := by
  have extend : ∀ {p : Nat → Prop}, (∀ j < n, p j) → p n → ∀ j < n + 1, p j := fun hp hn j hj =>
    (Nat.lt_succ_iff_lt_or_eq.mp hj).elim (hp j) (fun e => e ▸ hn)
  unfold betterVictim
  cases hr : s.record n with
  | none =>
    cases best with
    | none => exact extend h (by simp [hr])
    | some b => exact ⟨⟨by have := h.1.1; omega, h.1.2⟩, extend h.2 (by simp [hr])⟩
  | some rec =>
    dsimp only
    cases he : rec.evictable with
    | false =>
      rw [if_neg (by simp)]
      cases best with
      | none => exact extend h (by simp [hr, he])
      | some b => exact ⟨⟨by have := h.1.1; omega, h.1.2⟩, extend h.2 (by simp [hr, he])⟩
    | true =>
      rw [if_pos rfl]
      cases best with
      | none =>
        exact ⟨⟨by omega, rec, hr, he, rfl⟩,
          extend (fun j hj r hjr hje => by simp [h j hj r hjr] at hje) (by simp [hr])⟩
      | some b =>
        obtain ⟨b, age⟩ := b
        obtain ⟨⟨hb, hbest⟩, hall⟩ := h
        dsimp only
        split
        · rename_i hgt
          refine ⟨⟨by omega, rec, hr, he, rfl⟩, extend (fun j hj r hjr hje => ?_) (by simp [hr])⟩
          have := hall j hj r hjr hje
          omega
        · rename_i hle
          refine ⟨⟨by omega, hbest⟩, extend hall fun r hnr _ => ?_⟩
          rw [hr] at hnr
          cases hnr
          omega

theorem State.bestVictim_foldl (s : State) (n : Nat) :
    s.BestVictim n ((List.range n).foldl (betterVictim s) none) := by
  induction n with
  | zero => exact fun j hj => absurd hj (Nat.not_lt_zero j)
  | succ n ih =>
    rw [List.range_succ, List.foldl_append]
    exact State.bestVictim_succ ih

/-- The victim is the oldest candidate, the lowest-numbered of equals (R6). -/
theorem State.victim_some {s : State} {r : Nat} {rec : Record} (hr : s.record r = some rec) (he : rec.evictable = true)
    (hbest : ∀ j other, s.record j = some other → other.evictable = true →
      other.age < rec.age ∨ (other.age = rec.age ∧ r ≤ j)) : s.victim = some r := by
  have hv := s.bestVictim_foldl 48
  unfold State.victim
  rw [show recordIndices = List.range 48 from rfl]
  cases hf : (List.range 48).foldl (betterVictim s) none with
  | none =>
    rw [hf] at hv
    simp [hv r (s.record_some_lt hr) rec hr] at he
  | some b =>
    obtain ⟨b, age⟩ := b
    rw [hf] at hv
    obtain ⟨⟨-, other, hb, hbe, rfl⟩, hall⟩ := hv
    have h1 := hall r (s.record_some_lt hr) rec hr he
    have h2 := hbest b other hb hbe
    have : b = r := by omega
    rw [this]
    rfl

/-- Without a candidate there is no victim (R6). -/
theorem State.victim_none {s : State} (h : ∀ r rec, s.record r = some rec → rec.evictable = false) :
    s.victim = none := by
  cases hv : s.victim with
  | none => rfl
  | some r =>
    obtain ⟨rec, hr, he⟩ := Kept.victim_evictable hv
    simp [h r rec hr] at he

theorem Record.evictable_iff (rec : Record) :
    rec.evictable = true ↔ ¬(rec.pinned = true ∨ rec.held = true ∨ rec.state = .live) := by
  simp [Record.evictable, not_or, and_assoc]

/-- The record that an allocation makes, with its notice NEW (R5). -/
theorem State.setRecord_new (s : State) {r : Nat} (hr : r < 48) (e : Nat) (item : Item) (seq : Octet)
    (a : ItemAttributes) :
    (s.setRecord r (some (newRecord e item seq a))).notify r causeNew =
      { s with
        records := s.records.setIfInBounds r
          (some { newRecord e item seq a with queued := decide (a.policy ≠ .silent) })
        queue := if a.policy ≠ .silent then s.queue ++ [⟨r, causeNew⟩] else s.queue } := by
  have ht : (newRecord e item seq a).tells causeNew = decide (a.policy ≠ .silent) := by
    simp [Record.tells, newRecord, causeNew]
  rw [State.setRecord_notify s hr, ht]
  simp only [show (newRecord e item seq a).queued = false from rfl, Bool.false_or, Bool.false_eq_true, if_false,
    decide_eq_true_eq]

/-- Change detection (R10): the payload taken, and whether the arrival counts as an update. -/
theorem Record.takePayload_eq (rec : Record) (payload : List Octet) :
    rec.takePayload payload =
      let updates := decide (payload ≠ rec.payload) || decide (rec.policy = .onUpdate)
      ({ rec with payload := payload, updateCount := if updates then rec.updateCount + 1 else rec.updateCount },
        if updates then causeUpdate else 0) := by
  unfold Record.takePayload
  by_cases hp : payload = rec.payload
  · subst hp
    by_cases hu : rec.policy = .onUpdate <;> simp [hu]
  · simp [hp]

end Sys2Proof.Machine
end

section
/-! PROOF. The capture table at an epoch mark (R13, R14). -/

namespace Sys2Proof.Machine

/-- A record under the rule of R14, its notice included. -/
def Record.staled (rec : Record) : Record :=
  if rec.goesStale then { rec with state := .stale, queued := rec.queued || rec.tells causeStale } else rec

/-- Record `r` becomes STALE and sends its notice. -/
def State.tellsStale (s : State) (r : Nat) : Bool :=
  (s.record r).any fun rec => rec.goesStale && rec.tells causeStale

/-- Record `r` has an entry in the change queue. -/
def State.isQueued (s : State) (r : Nat) : Bool := (s.record r).any Record.queued

/-- Record `r` becomes STALE and counts toward DATA_STALE. -/
def State.stalesInhibit (s : State) (r : Nat) : Bool := (s.record r).any fun rec => rec.goesStale && rec.inhibit

/-- An entry of the change queue once the records of `l` are through the rule of R14 (R32). -/
def State.staleEntry (s : State) (l : List Nat) (q : ChangeEntry) : ChangeEntry :=
  if q.record ∈ l ∧ (s.tellsStale q.record && s.isQueued q.record) = true then
    { q with causes := q.causes ||| causeStale }
  else q

@[simp] theorem State.record_staleEntry (s : State) (l : List Nat) (q : ChangeEntry) :
    (s.staleEntry l q).record = q.record := by
  unfold State.staleEntry
  split <;> rfl

theorem State.staleEntry_of_notMem {s : State} {l : List Nat} {q : ChangeEntry} (h : q.record ∉ l) :
    s.staleEntry l q = q := if_neg fun x => h x.1

/-- The table and the change queue once the records of `l`, in its order, are through the rule of R14. -/
def State.staleTable (s : State) (l : List Nat) : State :=
  { s with
    records := s.records.mapIdx fun r o => if r ∈ l then o.map Record.staled else o
    queue := s.queue.map (s.staleEntry l) ++
      (l.filter fun r => s.tellsStale r && !s.isQueued r).map fun r => ⟨r, causeStale⟩ }

theorem State.staleTable_queue (s : State) (l : List Nat) :
    (s.staleTable l).queue = s.queue.map (s.staleEntry l) ++
      (l.filter fun r => s.tellsStale r && !s.isQueued r).map fun r => ⟨r, causeStale⟩ := rfl

theorem State.record_staleTable (s : State) (l : List Nat) (r : Nat) :
    (s.staleTable l).record r = if r ∈ l then (s.record r).map Record.staled else s.record r := by
  by_cases hr : r < 48
  · simp [State.record_eq_getElem _ hr, State.staleTable]
  · simp [State.record_of_le _ (by omega : 48 ≤ r)]

/-- The rule of R14 changes the table and the change queue alone. -/
theorem State.staleTable_eq {s t : State} {l : List Nat} (hr : ∀ r < 48, (s.staleTable l).record r = t.record r)
    (hq : (s.staleTable l).queue = t.queue) : s.staleTable l = { s with records := t.records, queue := t.queue } := by
  rw [← State.records_ext hr, ← hq]
  rfl

/-- The rule of R14 leaves everything as it is where no record goes stale. -/
theorem State.staleTable_of_fresh {s : State} {l : List Nat}
    (h : ∀ r ∈ l, ∀ rec, s.record r = some rec → rec.goesStale = false) : s.staleTable l = s := by
  have htells : ∀ r ∈ l, s.tellsStale r = false := fun r hr => by
    cases hrec : s.record r with
    | none => simp [State.tellsStale, hrec]
    | some rec => simp [State.tellsStale, hrec, h r hr rec hrec]
  refine State.staleTable_eq (t := s) (fun r _ => ?_) ?_
  · rw [State.record_staleTable]
    split
    · cases hrec : s.record r with
      | none => rfl
      | some rec => simp [Record.staled, h r ‹_› rec hrec]
    · rfl
  · have hentry : ∀ q ∈ s.queue, s.staleEntry l q = q := fun q _ =>
      if_neg fun x => by simp [htells _ x.1] at x
    have hnone : (l.filter fun r => s.tellsStale r && !s.isQueued r) = [] :=
      List.filter_eq_nil_iff.mpr fun r hr => by simp [htells r hr]
    rw [State.staleTable_queue, List.map_congr_left hentry, hnone]
    simp

/-- The records of `l` after a record that is not among them. -/
theorem State.staleTable_cons {s : State} {r : Nat} {l : List Nat} (h : r ∉ l) :
    (s.staleTable [r]).staleTable l = s.staleTable (r :: l) := by
  have hrec : ∀ r' ∈ l, (s.staleTable [r]).record r' = s.record r' := fun r' hr' => by
    rw [State.record_staleTable, if_neg (by simpa using fun e : r' = r => h (e ▸ hr'))]
  have htells : ∀ r' ∈ l, (s.staleTable [r]).tellsStale r' = s.tellsStale r' := fun r' hr' => by
    rw [State.tellsStale, State.tellsStale, hrec r' hr']
  have hqueued : ∀ r' ∈ l, (s.staleTable [r]).isQueued r' = s.isQueued r' := fun r' hr' => by
    rw [State.isQueued, State.isQueued, hrec r' hr']
  refine State.staleTable_eq (t := s.staleTable (r :: l)) (fun r' _ => ?_) ?_
  · simp only [State.record_staleTable, List.mem_cons]
    by_cases hl : r' ∈ l
    · have : r' ≠ r := fun e => h (e ▸ hl)
      simp [hl, this]
    · simp [hl]
  · have hentry : ∀ q, (s.staleTable [r]).staleEntry l (s.staleEntry [r] q) = s.staleEntry (r :: l) q := fun q => by
      by_cases hl : q.record ∈ l
      · have hne : q.record ∉ [r] := by simpa using fun e : q.record = r => h (e ▸ hl)
        rw [State.staleEntry_of_notMem hne]
        simp [State.staleEntry, hl, htells, hqueued]
      · rw [State.staleEntry_of_notMem (by simpa using hl)]
        simp [State.staleEntry, hl]
    have hfilter : (l.filter fun r' => (s.staleTable [r]).tellsStale r' && !(s.staleTable [r]).isQueued r') =
        l.filter fun r' => s.tellsStale r' && !s.isQueued r' :=
      List.filter_congr fun r' hr' => by rw [htells r' hr', hqueued r' hr']
    have hnew : ∀ x ∈ ([r].filter fun r => s.tellsStale r && !s.isQueued r).map fun r => ⟨r, causeStale⟩,
        (s.staleTable [r]).staleEntry l x = x := fun x hx => by
      obtain ⟨r', hr', rfl⟩ := List.mem_map.mp hx
      refine State.staleEntry_of_notMem ?_
      rwa [List.mem_singleton.mp (List.mem_filter.mp hr').1]
    have hold : (s.queue.map (s.staleEntry [r])).map ((s.staleTable [r]).staleEntry l) =
        s.queue.map (s.staleEntry (r :: l)) := by
      rw [List.map_map]
      exact List.map_congr_left fun q _ => hentry q
    rw [State.staleTable_queue, State.staleTable_queue, State.staleTable_queue, hfilter, List.map_append, hold,
      List.map_congr_left hnew, List.map_id', List.append_assoc, ← List.map_append, ← List.filter_append]
    rfl

/-- The rule of R14 on one record that goes stale. -/
theorem State.staleTable_single {s : State} {r : Nat} {rec : Record} (hrec : s.record r = some rec)
    (hgo : rec.goesStale = true) :
    s.staleTable [r] = (s.setRecord r (some { rec with state := .stale })).notify r causeStale := by
  have hlt := s.record_some_lt hrec
  have hstaled : rec.staled = { rec with state := .stale, queued := rec.queued || rec.tells causeStale } := if_pos hgo
  have htells : s.tellsStale r = rec.tells causeStale := by simp [State.tellsStale, hrec, hgo]
  have hqueued : s.isQueued r = rec.queued := by simp [State.isQueued, hrec]
  rw [State.setRecord_notify s hlt]
  refine State.staleTable_eq
    (t := { s.setRecord r (some rec.staled) with
      queue := if rec.tells causeStale then (if rec.queued then mergeCauses r causeStale s.queue
        else s.queue ++ [⟨r, causeStale⟩]) else s.queue }) (fun r' _ => ?_) ?_ |>.trans ?_
  · show _ = (s.setRecord r (some rec.staled)).record r'
    rw [State.record_staleTable, State.record_setRecord]
    by_cases h : r' = r
    · simp [h, hrec, hlt]
    · simp [h]
  · rw [State.staleTable_queue, List.filter_singleton, htells, hqueued]
    have hentry : ∀ q, s.staleEntry [r] q = if q.record = r ∧ (rec.tells causeStale && rec.queued) = true then
        { q with causes := q.causes ||| causeStale } else q := fun q => by
      by_cases h : q.record = r <;> simp [State.staleEntry, h, htells, hqueued]
    have hmap : s.queue.map (s.staleEntry [r]) = s.queue.map fun q =>
        if q.record = r ∧ (rec.tells causeStale && rec.queued) = true then
          { q with causes := q.causes ||| causeStale } else q := List.map_congr_left fun q _ => hentry q
    rw [hmap]
    cases rec.tells causeStale <;> cases rec.queued <;> simp [mergeCauses]
  · rw [hstaled]
    rfl

/-- One aged record: the rule of R14, and the report where it counts toward DATA_STALE (R24). -/
theorem State.staleRecord_eq (s : State) (r : Nat) :
    s.staleRecord r = if s.stalesInhibit r then (s.staleTable [r]).reportDataStale else s.staleTable [r] := by
  unfold State.staleRecord State.stalesInhibit
  have fresh : (∀ rec, s.record r = some rec → rec.goesStale = false) → s.staleTable [r] = s := fun h =>
    State.staleTable_of_fresh fun r' hr' => List.mem_singleton.mp hr' ▸ h
  cases hrec : s.record r with
  | none => exact (fresh fun rec h => by simp [hrec] at h).symm
  | some rec =>
    cases hgo : rec.goesStale with
    | false =>
      have := fresh fun rec' h => by rw [hrec] at h; cases h; exact hgo
      simp [hgo, this]
    | true => simp only [Option.any_some, hgo, Bool.true_and, if_true, ← State.staleTable_single hrec hgo]

/-- A report to the inhibit unit and the rule of R14 leave each other's part of the state alone. -/
theorem State.staleTable_setCondition {s : State} (h : InhibitOk s.inh) (c : Condition) (on : Bool) (l : List Nat) :
    (s.setCondition c on).staleTable l = (s.staleTable l).setCondition c on := by
  rw [State.setCondition_eq_inhSettled h, State.setCondition_eq_inhSettled (s := s.staleTable l) h]
  rfl

/-- A record that goes stale and counts makes DATA_STALE active, and starts no arbiter (R24). -/
theorem State.reportDataStale_staleTable {s : State} (h : InhibitOk s.inh) {r : Nat} (hr : s.stalesInhibit r = true) :
    (s.staleTable [r]).reportDataStale = (s.staleTable [r]).setCondition .dataStale true := by
  have hlevel : (s.staleTable [r]).dataStaleLevel = true := by
    rw [State.dataStaleLevel_iff]
    simp only [State.stalesInhibit, Option.any_eq_true, Bool.and_eq_true] at hr
    obtain ⟨rec, hrec, hgo, hinh⟩ := hr
    refine ⟨r, rec.staled, ?_, ?_⟩
    · simp [State.record_staleTable, hrec]
    · simp [Record.staled, hgo, Record.untrusted, hinh]
  rw [State.reportDataStale, hlevel]
  exact State.report_true (s := s.staleTable [r]) h .dataStale

/-- The rule of R14 on aged records, one after the other, with the report of DATA_STALE made at most once. -/
theorem foldl_staleRecord {l : List Nat} (hl : l.Nodup) {s : State} (h : InhibitOk s.inh) :
    l.foldl State.staleRecord s =
      if l.any s.stalesInhibit then (s.staleTable l).setCondition .dataStale true else s.staleTable l := by
  induction l generalizing s with
  | nil => exact (State.staleTable_of_fresh (by simp)).symm
  | cons r l ih =>
    obtain ⟨hr, hl⟩ := List.nodup_cons.mp hl
    have hany : ∀ t : State, (∀ r' ∈ l, t.record r' = s.record r') → l.any t.stalesInhibit = l.any s.stalesInhibit :=
      fun t ht => by
        rw [Bool.eq_iff_iff, List.any_eq_true, List.any_eq_true]
        exact exists_congr fun r' => and_congr_right fun hm => by
          rw [State.stalesInhibit, State.stalesInhibit, ht r' hm]
    have hsame : ∀ r' ∈ l, (s.staleTable [r]).record r' = s.record r' := fun r' hr' => by
      rw [State.record_staleTable, if_neg (by simpa using fun e : r' = r => hr (e ▸ hr'))]
    rw [List.foldl_cons, State.staleRecord_eq, List.any_cons]
    cases hi : s.stalesInhibit r with
    | false =>
      simp only [Bool.false_or, Bool.false_eq_true, if_false]
      rw [ih hl (s := s.staleTable [r]) h, hany _ hsame, State.staleTable_cons hr]
    | true =>
      simp only [Bool.true_or, if_true]
      rw [State.reportDataStale_staleTable h hi, ih hl (State.setCondition_ok (s := s.staleTable [r]) h _ _),
        State.staleTable_setCondition (s := s.staleTable [r]) h, State.staleTable_cons hr]
      split
      · exact State.setCondition_setCondition (s := s.staleTable (r :: l)) h _ _
      · rfl

/-- An outstanding mark at the capture table: every record ages, and then each is under the rule of R14. -/
theorem State.takeMark_captureTable {s : State} (h : MarkBlock.captureTable ∈ s.marks) :
    s.takeMark .captureTable =
      recordIndices.foldl State.staleRecord ({ s with marks := s.marks.erase .captureTable } : State).ageRecords := by
  unfold State.takeMark State.deliver
  rw [if_neg (by simp), if_pos (by simpa using h)]
  rfl

theorem State.record_ageRecords (s : State) (r : Nat) : s.ageRecords.record r = (s.record r).map Record.aged := by
  by_cases hr : r < 48
  · simp [State.record_eq_getElem _ hr, State.ageRecords]
  · simp [State.record_of_le _ (by omega : 48 ≤ r)]

theorem Record.tells_causeStale (rec : Record) : rec.tells causeStale = decide (rec.policy ≠ .silent) := by
  simp [Record.tells, causeStale]

end Sys2Proof.Machine
end

section
/-! PROOF. Hard and soft reset, and a host port or a line that the part does not heed (R192, R193). -/

namespace Sys2Proof.Machine

/-! ### Hard reset -/

/-- An empty capture table with an empty change queue. -/
theorem queueOk_of_empty {s : State} (hr : ∀ r, s.record r = none) (hq : s.queue = []) : QueueOk s where
  distinct := by simp [hq]
  caused := by simp [hq]
  inUse := by simp [hq]
  queued_iff r rec h := by simp [hr] at h

/-- An empty capture table with an empty hold list. -/
theorem holdsOk_of_empty {s : State} (hr : ∀ r, s.record r = none) (hh : s.holds = []) : HoldsOk s where
  atMostFour := by simp [hh]
  distinct := by simp [hh]
  inUse := by simp [hh]
  held_iff r rec h := by simp [hr] at h
  shadow_held r rec h := by simp [hr] at h

theorem poolOk_of_empty {s : State} (hr : s.requests = []) (hc : s.completions = []) : PoolOk s :=
  ⟨by simp [hr, hc], by simp [hr, hc]⟩

theorem keysOk_of_empty {s : State} (hr : ∀ r, s.record r = none) : KeysOk s := fun r r' rec rec' h => by
  simp [hr] at h

theorem inhibitOk_reset : InhibitOk InhibitUnit.reset := ⟨by decide, fun n h => by cases h⟩

theorem PortState.ok_reset : PortState.reset.Ok where
  idle_free _ := rfl
  rest_retries _ _ t h := by cases h
  busy_inFlight h := by cases h <;> contradiction
  disabled_free _ := rfl

theorem State.record_reset (r : Nat) : State.reset.record r = none := by
  by_cases hr : r < 48
  · rw [State.record_eq_getElem _ hr]
    exact Vector.getElem_replicate ..
  · exact State.record_of_le _ (by omega)

/-- What HARD_RESET leaves: the reset state but for the host's levels, the sender's queue and the index of free values
(R192). -/
def State.hardReset (s : State) : State :=
  { State.reset with host := s.host.abandoned, pending := s.pending, choices := s.choices }

theorem exec_hardReset (s : State) : exec .hardReset s = .next s.hardReset := rfl

/-- The reset state, whatever the host drives and its sender has sent, meets every invariant. -/
theorem hardReset_invariants (s : State) :
    InhibitOk s.hardReset.inh ∧ QueueOk s.hardReset ∧ HoldsOk s.hardReset ∧ PoolOk s.hardReset ∧ KeysOk s.hardReset ∧
      PortsOk s.hardReset ∧ WaitingOk s.hardReset :=
  have hr : ∀ r, s.hardReset.record r = none := State.record_reset
  ⟨inhibitOk_reset, queueOk_of_empty hr rfl, holdsOk_of_empty hr rfl, poolOk_of_empty rfl rfl, keysOk_of_empty hr,
    fun p => by cases p <;> exact PortState.ok_reset, ⟨List.nodup_nil, fun h => by cases h⟩⟩

/-! ### Soft reset -/

/-- A soft reset leaves every port as R93, R112 and R135 say. -/
theorem PortState.softReset_eq (ps : PortState) (qgap : Octet) :
    ps.softReset qgap =
      { ps with
        link := if ps.link = .disabled then .disabled else .searching
        silence := 0, counters := .zero, windowEpochs := 0, windowCrc := 0, fired := false, transmitCount := 0
        deframer := .hunting
        sequencer := if ps.link = .disabled then ps.sequencer else .quiet none (qgap.toNat * 40)
        transaction := none, lastGrant := .request, dueList := [] } := by
  by_cases h : ps.link = .disabled <;> simp [PortState.softReset, PortState.enabled, h, Config.ticksPerTenMicros]

theorem NodeState.enabled_iff (k : NodeState) : k.enabled = true ↔ ¬(k = .vacant ∨ k = .disabled) := by
  cases k <;> simp [NodeState.enabled]

/-- The nodes after a soft reset (R135). -/
theorem State.node_softResetBlocks (s : State) (e : Nat) : s.softResetBlocks.node e = (s.node e).softReset := by
  by_cases he : e < 32
  · simp [State.node, State.softResetBlocks, he]
  · rw [State.node_of_le _ (by omega), State.node_of_le _ (by omega)]
    rfl

/-- With only STARTUP active, the effective set is empty where the mask lacks it (R164). -/
theorem startup_masked_iff (mask : Octet) : Condition.startup.bit &&& mask = 0 ↔ mask.getLsbD 0 = false := by
  revert mask
  decide

/-- The unit after a soft reset: ASSERTED by STARTUP, or through the release decision where STARTUP is masked (R179). -/
theorem State.inhSettle_softResetBlocks (s : State) :
    s.softResetBlocks.inhSettle 0 = s.softResetBlocks.inhBecomes
      { s.softResetBlocks.inh with
        state := if s.inh.mask.getLsbD 0 then .asserted else releasedState s.inh.mode s.inh.delay } := by
  have heff : s.softResetBlocks.inh.effective = 0 ↔ s.inh.mask.getLsbD 0 = false := startup_masked_iff s.inh.mask
  unfold State.inhSettle
  rw [if_neg (by simp)]
  by_cases hm : s.inh.mask.getLsbD 0 = true
  · rw [if_neg (fun x => absurd hm (by rw [heff.mp x.2]; decide)), if_pos hm]
    exact (State.inhBecomes_self _).symm
  · rw [if_pos ⟨rfl, heff.mpr (by simpa using hm)⟩, if_neg hm]
    exact State.releaseDecision_eq rfl

/-! ### The host port outside a transaction -/

/-- A part that is held, or that has nothing to take, has caught up. -/
theorem caughtUp_of_waitless {s : State} (h : s.held = true ∨ s.pending = []) : s.caughtUp = s :=
  h.elim caughtUp_of_held caughtUp_of_empty

/-- Outside a transaction a rise of SCK samples nothing. -/
theorem sckRises_off {s : State} (hoff : s.host.phase = .off) (hwait : s.held = true ∨ s.pending = []) (b : Bool) :
    ∃ sckHigh, s.sckRises b = { s with host := { s.host with sckHigh } } := by
  unfold State.sckRises
  rw [caughtUp_of_waitless hwait]
  dsimp only
  split
  · exact ⟨s.host.sckHigh, rfl⟩
  · unfold State.sampled
    simp only [hoff]
    exact ⟨true, rfl⟩

/-- Outside a transaction a fall of SCK changes what is left in the shifter at most. -/
theorem sckFalls_off {s : State} (hoff : s.host.phase = .off) (hwait : s.held = true ∨ s.pending = []) :
    ∃ sckHigh k, s.sckFalls = { s with host := { s.host with sckHigh, out := s.host.out.drop k } } := by
  unfold State.sckFalls
  rw [caughtUp_of_waitless hwait]
  dsimp only
  split
  · exact ⟨s.host.sckHigh, 0, rfl⟩
  · unfold State.shifted
    simp only [hoff]
    refine ⟨false, 1, ?_⟩
    rw [← hoff]

/-- A bit clocked outside a transaction, with nothing to take first (R188, R192). -/
theorem clocked_off {s : State} (hoff : s.host.phase = .off) (hwait : s.held = true ∨ s.pending = []) (b : Bool) :
    ∃ sckHigh k, s.clocked b = { s with host := { s.host with sckHigh, out := s.host.out.drop k } } := by
  obtain ⟨sck, hrise⟩ := sckRises_off hoff hwait b
  obtain ⟨sck', k, hfall⟩ := sckFalls_off (s := { s with host := { s.host with sckHigh := sck } }) hoff hwait
  exact ⟨sck', k, by rw [State.clocked, hrise, hfall]⟩

/-- Clocked outside a transaction, SDO stays high-impedance (R188, R192). -/
theorem clockBits_off (bits : List Bool) {s : State} (hoff : s.host.phase = .off)
    (hwait : s.held = true ∨ s.pending = []) :
    ∃ sckHigh k, clockBits bits s =
      (List.replicate bits.length none, { s with host := { s.host with sckHigh, out := s.host.out.drop k } }) := by
  induction bits generalizing s with
  | nil => exact ⟨s.host.sckHigh, 0, rfl⟩
  | cons b bits ih =>
    obtain ⟨sck, k, hc⟩ := clocked_off hoff hwait b
    obtain ⟨sck', k', h⟩ := ih (s := s.clocked b) (by rw [hc]; exact hoff) (by rw [hc]; exact hwait)
    have hsdo : s.sdo = none := if_pos (.inr (.inr hoff))
    refine ⟨sck', k + k', ?_⟩
    unfold clockBits
    rw [h, hsdo, hc]
    simp only [List.drop_drop]
    rfl

/-- A transaction of a held part (R192). -/
theorem spiTransaction_held (bits : List Bool) {u : State} (hheld : u.held = true) (hoff : u.host.phase = .off) :
    spiTransaction bits u = (List.replicate bits.length none, { u with host := .reset }) := by
  have hfall : ∃ csHigh, u.csFalls = { u with host := { u.host with csHigh } } := by
    unfold State.csFalls
    rw [caughtUp_of_held hheld]
    dsimp only
    split
    · exact ⟨u.host.csHigh, rfl⟩
    · exact ⟨false, rfl⟩
  obtain ⟨cs, hcs⟩ := hfall
  obtain ⟨sck, k, h⟩ :=
    clockBits_off bits (s := u.csFalls) (by rw [hcs]; exact hoff) (.inl (by rw [hcs]; exact hheld))
  show ((clockBits bits u.csFalls).1, (clockBits bits u.csFalls).2.csRises) = _
  rw [h, hcs]
  rfl

/-- A held part ignores its receive pins (R192). -/
theorem lineBits_held {s : State} (h : s.held = true) (p : Port) (levels : List Bool) : s.lineBits p levels = s := by
  have hbit : ∀ b, s.lineBit p b = s := fun b => by
    unfold State.lineBit
    simp [caughtUp_of_held h, h]
  unfold State.lineBits
  induction levels with
  | nil => rfl
  | cons b bs ih => rw [List.foldl_cons, hbit, ih]

/-! ### What is read after a hard reset -/

/-- What the window reads after a hard reset (R194). -/
theorem window_reset :
    (List.range 128).map (fun a => State.reset.readRegister (BitVec.ofNat 7 a)) =
      List.replicate 16 0x00 ++ [0x01, 0x01, 0xFF, 0x00, 0x0A, 0x00, 0x00, 0x00, 0x64, 0x00] ++
      [0x00, 0x00, 0x00, 0x00, 0x00, 0x01] ++ List.replicate 80 0x00 ++
      [0x01, 0x01, 0x28, 0x05, 0x04, 0x08, 0x10, 0x00, 0x00, 0x00, 0x00, 0xFF, 0xFF, 0xFF, 0xFF, 0x00] := by
  decide

theorem flags_reset : State.reset.flags = 0 := by decide

theorem irq_reset : State.reset.irq = false := by decide

theorem statusOctet_reset : State.reset.statusOctet = 0x02 := by decide

end Sys2Proof.Machine
end

section
/-! PROOF. The statements of the capture table's family. -/

namespace Sys2Proof.Machine

/-- Settles O13, by the checks in their order. -/
theorem recordCommandsPinAndRelease : Obligations.RecordCommandsPinAndRelease := by
  intro s r answer pinning
  have hpin : ∀ code pinned, (s.taken code).setPinned pinned = pinning code pinned := by
    intro code pinned
    unfold State.setPinned
    rw [show (s.taken code).record (s.taken code).arg0 = s.record r from rfl]
    simp only [pinning]
    cases s.record r <;> rfl
  refine ⟨congrArg Host.Outcome.next (hpin 0x20 true), congrArg Host.Outcome.next (hpin 0x21 false), ?_⟩
  refine congrArg Host.Outcome.next ?_
  refine if_congr Iff.rfl rfl ?_
  have hrec : (s.taken 0x22).record (s.taken 0x22).arg0 = s.record r := rfl
  rw [hrec]
  cases hx : s.record r with
  | none => rfl
  | some rec =>
    refine if_congr Iff.rfl rfl ?_
    rw [State.freeReporting_eq (hrec.trans hx)]
    dsimp only
    split <;> rfl

/-- Settles O14: freeing one record after the other is one change of the table and one of the queue. -/
theorem flushFreesUnprotected : Obligations.FlushFreesUnprotected := by
  intro s frees freed
  have hmem : ∀ r, r ∈ s.flushable ↔ (s.record r).any frees = true := fun r => by
    rw [s.mem_flushable]
    simp [frees, Option.any_eq_true]
  have hfreed : s.flushable.foldl State.freeRecord (s.taken 0x23) = freed := by
    rw [foldl_freeRecord]
    have hr : (s.flushable.foldl State.freeRecord (s.taken 0x23)).records = freed.records := by
      refine State.records_ext fun r hr => ?_
      have hold : (s.taken 0x23).record r = s.record r := rfl
      have hnew : freed.record r = (s.record r).filter fun rec => !frees rec := by
        rw [State.record_eq_getElem _ hr, State.record_eq_getElem _ hr]
        simp [freed]
      rw [record_foldl_free, hold, hnew]
      simp only [hmem]
      cases s.record r with
      | none => rfl
      | some rec => cases hf : frees rec <;> simp [Option.filter, hf]
    have hq : (s.taken 0x23).queue.filter (fun e => decide (e.record ∉ s.flushable)) = freed.queue := by
      refine List.filter_congr fun e _ => ?_
      simp only [hmem]
      cases (s.record e.record).any frees <;> rfl
    rw [hr, hq]
    rfl
  have hlen : s.flushable = (List.range 48).filter fun r => (s.record r).any frees := by
    refine List.filter_congr fun r _ => ?_
    cases s.record r with
    | none => rfl
    | some rec => simp [frees]
  show Host.Outcome.next _ = _
  rw [show (s.taken 0x23).flushable = s.flushable from rfl, hfreed, hlen]
  rfl

/-- Settles O54: the key finds its record, and what is written there is noticed with its causes, held or not. -/
theorem arrivalUpdatesRecord : Obligations.ArrivalUpdatesRecord := by
  rintro s r e rec item seq a hk hrec rfl hitem differs updates causes told attributed taken t
  have hlt := s.record_some_lt hrec
  have hfind : s.findRecord rec.entry item.itemType = some r := hitem ▸ State.findRecord_some hk hrec
  have hqueue : t.queue =
      if told then (if rec.queued then mergeCauses r causes s.queue else s.queue ++ [⟨r, causes⟩]) else s.queue := by
    simp only [t]
    cases told <;> rfl
  have hstate : ∀ x q n, x = taken → q = t.queue → n = t.shadowOverwrites →
      ({ s with records := s.records.setIfInBounds r (some x), queue := q, shadowOverwrites := n } : State) = t := by
    rintro x q n rfl rfl rfl
    rfl
  unfold State.arrive
  rw [hfind]
  dsimp only
  rw [hrec]
  dsimp only
  cases hheld : rec.held with
  | true =>
    have hcauses : rec.revival = causes := by simp [causes, updates, hheld, Record.revival, causeRevived]
    have ht : (({ s with shadowOverwrites := t.shadowOverwrites } : State).setRecord r
        (some { rec.attributed a with shadow := some ⟨item.payload, seq⟩ })).notify r causes = t := by
      have htaken : taken = { attributed with shadow := some ⟨item.payload, seq⟩ } := if_pos hheld
      exact (State.setRecord_notify _ hlt _ _).trans (hstate _ _ _ htaken.symm hqueue.symm rfl)
    have hover : t.shadowOverwrites =
        if rec.shadow.isSome then satInc Config.count16Max s.shadowOverwrites else s.shadowOverwrites := by
      simp only [t, hheld, Bool.true_and]
      rfl
    rw [if_pos rfl]
    unfold State.shadowRecord
    simp only [hcauses, ← hover, ht]
    rfl
  | false =>
    have hcauses : (rec.revival ||| if updates then causeUpdate else 0) = causes := rfl
    have hpay : ({ rec.attributed a with sequence := seq } : Record).takePayload item.payload =
        ({ rec.attributed a with
          sequence := seq, payload := item.payload
          updateCount := if updates then rec.updateCount + 1 else rec.updateCount },
        if updates then causeUpdate else 0) := by
      rw [Record.takePayload_eq]
      simp only [updates, hheld, Bool.not_false, Bool.true_and]
      rfl
    have ht : (s.setRecord r (some { rec.attributed a with
        sequence := seq, payload := item.payload
        updateCount := if updates then rec.updateCount + 1 else rec.updateCount })).notify r causes = t := by
      have htaken : taken = { attributed with
          sequence := seq, payload := item.payload
          updateCount := if updates then rec.updateCount + 1 else rec.updateCount } := if_neg (by simp [hheld])
      have hover : t.shadowOverwrites = s.shadowOverwrites := by simp [t, hheld]
      exact (State.setRecord_notify _ hlt _ _).trans (hstate _ _ _ htaken.symm hqueue.symm hover.symm)
    rw [if_neg (by simp)]
    unfold State.updateRecord
    simp only [hpay, hcauses, ht]
    rfl

/-- Settles O55: FREE record, victim and drop are the three answers of the two searches. -/
theorem arrivalAllocatesRecord : Obligations.ArrivalAllocatesRecord := by
  intro s e item seq a hkey told fresh protect
  have hprotect : ∀ rec, protect rec ↔ rec.evictable = false := fun rec => by
    rw [← Bool.not_eq_true, Record.evictable_iff, not_not]
  have harrive : s.arrive e item seq a = s.allocate (newRecord e item seq a) := by
    unfold State.arrive
    rw [State.findRecord_none hkey]
  refine ⟨fun r hr hfree hlow => ?_, fun hfull => ⟨fun r rec hrec hun hbest => ?_, fun hall => ?_⟩⟩
  · rw [harrive, State.allocate, State.freeIndex_some hr hfree hlow]
    simp only [State.setRecord_new s hr, told, decide_eq_true_eq]
    rfl
  · intro t
    have hev : ∀ {x : Record}, x.evictable = true → ¬protect x := fun h => by simp [hprotect, h]
    rw [harrive, State.allocate, State.freeIndex_none hfull]
    have hv : s.victim = some r := State.victim_some hrec (by simpa [hprotect] using hun)
      fun j other hj ho => hbest j other hj (hev ho)
    have hlt := s.record_some_lt hrec
    have ht : (({ s.unqueue r with evictions := satInc Config.count16Max s.evictions } : State).setRecord r
        (some (newRecord e item seq a))).notify r causeNew = t := by
      have hq : t.queue =
          if a.policy ≠ .silent then (s.unqueue r).queue ++ [⟨r, causeNew⟩] else (s.unqueue r).queue := by
        by_cases hp : a.policy = .silent
        · simp [t, told, hp]
        · simp [t, told, hp, causeNew]
      have hstate : ∀ q, q = t.queue → ({ t with queue := q } : State) = t := fun q h => h ▸ rfl
      exact (State.setRecord_new _ hlt e item seq a).trans (hstate _ hq.symm)
    simp only [hv]
    unfold State.evict
    simp only [hrec, Option.any_some]
    rw [show (s.unqueue r).evictions = s.evictions from rfl, ht]
    rfl
  · rw [harrive, State.allocate, State.freeIndex_none hfull]
    simp only [State.victim_none fun r rec h => (hprotect rec).mp (hall r rec h)]
    rfl

/-- Settles O47, by the fold of R14's rule over the aged table (`foldl_staleRecord`). -/
theorem recordsAgeAndGoStale : Obligations.RecordsAgeAndGoStale := by
  intro s h hmark aged stale told queued t
  let u : State := ({ s with marks := s.marks.erase .captureTable } : State).ageRecords
  have hrec : ∀ r, u.record r = (s.record r).map Record.aged := fun r => State.record_ageRecords _ r
  have hstale : ∀ rec : Record, rec.aged.goesStale = stale rec := fun rec => by
    simp only [stale, Record.goesStale, Bool.decide_and, Bool.and_assoc]
    rfl
  have htells : ∀ r, u.tellsStale r = told r := fun r => by
    rw [State.tellsStale, hrec, Option.any_map]
    simp only [Record.tells_causeStale, hstale]
    rfl
  have hqueued : ∀ r, u.isQueued r = queued r := fun r => by
    rw [State.isQueued, hrec, Option.any_map]
    rfl
  have hinhibit : ∀ r, u.stalesInhibit r = (s.record r).any fun rec => stale rec && rec.inhibit := fun r => by
    rw [State.stalesInhibit, hrec, Option.any_map]
    simp only [hstale]
    rfl
  have hmem : ∀ r, r ∈ recordIndices ↔ r < 48 := fun r => List.mem_range
  have htable : u.staleTable recordIndices = t := by
    refine (State.staleTable_eq (t := t) (fun r hr => ?_) ?_).trans rfl
    · rw [State.record_staleTable, if_pos ((hmem r).mpr hr), hrec, State.record_eq_getElem t hr,
        State.record_eq_getElem s hr]
      simp only [t, Vector.getElem_map, Option.map_map]
      refine congrArg (fun f => Option.map f _) (funext fun rec => ?_)
      simp only [Function.comp, Record.staled, hstale, Record.tells_causeStale]
      rfl
    · have hentry : ∀ q ∈ s.queue, u.staleEntry recordIndices q =
          if told q.record && queued q.record then { q with causes := q.causes ||| 0x08 } else q := fun q _ => by
        unfold State.staleEntry
        rw [htells, hqueued]
        refine if_congr ⟨fun x => x.2, fun x => ⟨(hmem _).mpr ?_, x⟩⟩ rfl rfl
        cases hq : s.record q.record with
        | none => simp [told, hq] at x
        | some rec => exact s.record_some_lt hq
      rw [State.staleTable_queue, show u.queue = s.queue from rfl, List.map_congr_left hentry]
      simp only [htells, hqueued]
      rfl
  have hfold := foldl_staleRecord (List.nodup_range (n := 48)) (s := u) h
  refine congrArg Host.Outcome.next ((State.takeMark_captureTable hmark).trans (hfold.trans ?_))
  rw [show List.range 48 = recordIndices from rfl, htable, show u.stalesInhibit = _ from funext hinhibit]

/-- Settles O29: the mask and every condition go through the one rule of the unit. -/
theorem maskAndReportsSettle : Obligations.MaskAndReportsSettle := by
  intro s
  refine ⟨?_, s.nodeLostLevel_iff, fun h => ⟨fun v => ?_, fun c on => ⟨?_, ?_⟩⟩⟩
  · simp only [State.dataStaleLevel_iff, Record.untrusted_iff]
  · exact congrArg Host.Outcome.next (State.writeMask_eq h v)
  · exact State.setCondition_eq_inhSettled h c on
  · exact congrArg (afterInhibit s) (State.setCondition_eq_inhSettled h c on)

/-- Settles O60: the tables and lists are empty, and the unit is ASSERTED by STARTUP. -/
theorem resetMeetsInvariants : Obligations.ResetMeetsInvariants := by
  refine ⟨hardReset_invariants State.reset, fun s t h => ?_, fun s h => ⟨h.marks_distinct, fun _ => rfl⟩⟩
  rw [exec_hardReset] at h
  cases h
  exact hardReset_invariants s

/-- Settles O5: field by field, with the host port outside a transaction for what a held part does. -/
theorem hardResetValues : Obligations.HardResetValues := by
  intro s
  refine ⟨s.hardReset, exec_hardReset s, State.record_reset, rfl, rfl, rfl, rfl, rfl, rfl, fun i => ?_, fun p => ?_,
    fun e => ?_, rfl, rfl, rfl, rfl, flags_reset, rfl, irq_reset, rfl, statusOctet_reset, rfl, rfl, rfl, rfl, ?_, ?_,
    window_reset⟩
  · by_cases hi : i < 16
    · simp [State.filter, State.hardReset, State.reset, hi]
    · simp [State.filter, hi]
  · cases p <;> rfl
  · by_cases he : e < 32
    · simp [State.node, State.hardReset, State.reset, he]
    · exact State.node_of_le _ (by omega)
  · exact ⟨rfl, rfl, rfl, send_of_held rfl, rfl, fun bits u hh ho => spiTransaction_held bits hh ho,
      lineBits_held rfl, rfl⟩
  · intro hcs hp bits
    obtain ⟨sck, k, h⟩ := clockBits_off bits (s := s.hardReset) rfl (.inr hp)
    refine ⟨sck, h.trans ?_⟩
    simp [State.hardReset, HostPort.abandoned]

/-- Settles O6: the blocks take their values, and the unit settles on STARTUP alone under the mask that is kept. -/
theorem softResetValues : Obligations.SoftResetValues := by
  intro s
  refine ⟨_, rfl, ?_⟩
  rw [State.inhSettle_softResetBlocks]
  refine ⟨rfl, fun p => ?_, fun e => ?_, rfl, ?_⟩
  · cases p <;> exact PortState.softReset_eq _ _
  · refine (State.node_softResetBlocks (s.taken 0x5A) e).trans ?_
    simp only [NodeEntry.softReset, NodeState.enabled_iff, ite_not]
    rfl
  · refine (State.inhBecomes_sticky (s := (s.taken 0x5A).softResetBlocks) rfl _).trans ?_
    exact if_congr Iff.rfl BitVec.zero_or rfl

end Sys2Proof.Machine
end

section
/-! PROOF. The change queue and the hold list, as the fields of the records show them (R29, R30, R48). -/

namespace Sys2Proof.Machine

/-! ### Tests of single records -/

/-- A test of every record after one is written. -/
theorem State.any_setRecord (s : State) (f : Record → Bool) (r r' : Nat) (o : Option Record) :
    ((s.setRecord r o).record r').any f = if r' = r then decide (r < 48) && o.any f else (s.record r').any f := by
  rw [State.record_setRecord]
  split
  · by_cases hr : r < 48 <;> simp [hr]
  · rfl

/-- A record that is written so that it answers a test as before changes no answer of that test. -/
theorem State.any_setRecord_same {s : State} {f : Record → Bool} {r : Nat} {o : Option Record}
    (h : o.any f = (s.record r).any f) (r' : Nat) : ((s.setRecord r o).record r').any f = (s.record r').any f := by
  rw [State.any_setRecord]
  split
  · subst r'
    by_cases hr : r < 48
    · simp [hr, h]
    · simp [hr, s.record_of_le (by omega : 48 ≤ r)]
  · rfl

/-- A test that no notice changes the answer to. -/
theorem State.any_notify {f : Record → Bool} (hf : ∀ rec b, f { rec with queued := b } = f rec) (s : State) (r : Nat)
    (c : BitVec 5) (r' : Nat) : ((s.notify r c).record r').any f = (s.record r').any f := by
  rcases s.record_notify r c r' with h | ⟨rec, hrec, h⟩
  · rw [h]
  · simp [h, hrec, hf]

/-! ### The change queue -/

/-- The queue names each of its records once, with a cause, and names exactly those whose queued field is yes. -/
theorem queueOk_iff (s : State) :
    QueueOk s ↔ (s.queue.map ChangeEntry.record).Nodup ∧ (∀ e ∈ s.queue, e.causes ≠ 0) ∧
      ∀ r, r ∈ s.queue.map ChangeEntry.record ↔ s.isQueued r = true := by
  constructor
  · refine fun h => ⟨h.distinct, h.caused, fun r => ?_⟩
    cases hr : s.record r with
    | some rec => simpa [State.isQueued, hr] using (h.queued_iff r rec hr).symm
    | none =>
      have hnot : r ∉ s.queue.map ChangeEntry.record := fun hmem => by
        obtain ⟨e, he, rfl⟩ := List.mem_map.mp hmem
        obtain ⟨rec, hrec⟩ := h.inUse e he
        simp [hr] at hrec
      simp [State.isQueued, hr, hnot]
  · rintro ⟨hd, hc, hq⟩
    refine ⟨hd, hc, fun e he => ?_, fun r rec hr => ?_⟩
    · obtain ⟨rec, hrec, -⟩ := Option.any_eq_true _ _ |>.mp ((hq _).mp (List.mem_map_of_mem he))
      exact ⟨rec, hrec⟩
    · simpa [State.isQueued, hr] using (hq r).symm

/-- The queued field of record `r` is cleared wherever there is one (R35). -/
theorem State.clearQueued_eq (s : State) (r : Nat) :
    s.clearQueued r =
      { s with
        records := s.records.mapIdx fun r' x => if r' = r then x.map fun rec => { rec with queued := false } else x } := by
  have hrecords : (s.clearQueued r).records = s.records.mapIdx fun r' x =>
      if r' = r then x.map fun rec => { rec with queued := false } else x := Vector.ext fun r' hr' => by
    rw [← State.record_eq_getElem _ hr', Vector.getElem_mapIdx, ← State.record_eq_getElem _ hr', State.clearQueued]
    by_cases e : r' = r
    · subst r'
      cases hrec : s.record r with
      | none => simp [hrec]
      | some rec => simp [State.record_setRecord, hr']
    · rw [if_neg e]
      split
      · rfl
      · exact State.record_setRecord_ne _ _ e
  rw [← hrecords, State.clearQueued]
  split <;> rfl

namespace QueueOk

variable {s t : State} {r : Nat} {o : Option Record}

/-- What has the same queue, and the same records with an entry, keeps the invariant. -/
theorem of_same (h : QueueOk s) (hq : t.queue = s.queue) (hr : ∀ r, t.isQueued r = s.isQueued r) : QueueOk t := by
  rw [queueOk_iff] at h ⊢
  simpa only [hq, hr] using h

theorem setRecord (h : QueueOk s) (ho : o.any Record.queued = s.isQueued r) : QueueOk (s.setRecord r o) :=
  h.of_same rfl (State.any_setRecord_same ho)

theorem withHolds (l : List Hold) (h : QueueOk s) : QueueOk { s with holds := l } := h.of_same rfl fun _ => rfl

theorem inhSettle (u : InhibitUnit) (n : Octet) (h : QueueOk s) : QueueOk ({ s with inh := u : State }.inhSettle n) := by
  obtain ⟨u', k, e⟩ := State.inhSettle_eq { s with inh := u } n
  rw [e]
  exact h.of_same rfl fun _ => rfl

/-- A removal (R33) with the record's field no longer yes. -/
theorem unqueue_setRecord (h : QueueOk s) (ho : o.any Record.queued = false) :
    QueueOk ((s.unqueue r).setRecord r o) := by
  obtain ⟨hd, hc, hq⟩ := (queueOk_iff s).mp h
  have hnames : ((s.unqueue r).setRecord r o).queue.map ChangeEntry.record =
      (s.queue.map ChangeEntry.record).filter fun r' => r' ≠ r := by
    simp [List.filter_map, Function.comp_def]
  refine (queueOk_iff _).mpr ⟨hnames ▸ hd.filter _, fun e he => hc e (List.mem_of_mem_filter he), fun r' => ?_⟩
  have hother : ((s.unqueue r).record r').any Record.queued = s.isQueued r' := rfl
  rw [hnames, State.isQueued, State.any_setRecord, hother, List.mem_filter, hq]
  by_cases e : r' = r <;> simp [e, ho]

/-- The head leaves the queue, and its record's field is cleared (R35). -/
theorem pop {e : ChangeEntry} {rest : List ChangeEntry} (h : QueueOk s) (hq : s.queue = e :: rest) :
    QueueOk ({ s with queue := rest : State }.clearQueued e.record) := by
  obtain ⟨rec, hrec⟩ := h.inUse e (hq ▸ List.mem_cons_self)
  have hrest : (s.unqueue e.record).queue = rest := by
    have hd := h.distinct
    simp only [hq, List.map_cons, List.nodup_cons, List.mem_map, not_exists, not_and] at hd
    rw [State.unqueue_queue, hq, List.filter_cons_of_neg (by simp)]
    exact List.filter_eq_self.mpr fun x hx => by simpa using hd.1 x hx
  have hpop : { s with queue := rest : State }.clearQueued e.record =
      (s.unqueue e.record).setRecord e.record (some { rec with queued := false }) := by
    have hrec' : { s with queue := rest : State }.record e.record = some rec := hrec
    unfold State.clearQueued
    rw [hrec', ← hrest]
    rfl
  rw [hpop]
  exact h.unqueue_setRecord rfl

/-- A notice merges into the entry of its record, or appends one and sets the field (R31, R32). -/
theorem notify (r : Nat) (c : BitVec 5) (h : QueueOk s) : QueueOk (s.notify r c) := by
  obtain ⟨hd, hc, hq⟩ := (queueOk_iff s).mp h
  rcases s.notify_cases r c with e | ⟨rec, hrec, -, hne, ⟨-, e⟩ | ⟨hfree, e⟩⟩ <;> rw [e]
  · exact h
  · refine (queueOk_iff _).mpr ⟨?_, fun x hx => ?_, fun r' => ?_⟩
    · rwa [map_record_mergeCauses]
    · obtain ⟨y, hy, rfl⟩ := List.mem_map.mp hx
      split
      · exact fun hz => hne (BitVec.or_eq_zero_iff.mp hz).2
      · exact hc y hy
    · rw [map_record_mergeCauses]
      exact hq r'
  · have hnew : r ∉ s.queue.map ChangeEntry.record := by
      rw [hq, State.isQueued, hrec]
      simpa using hfree
    have hlt := s.record_some_lt hrec
    refine (queueOk_iff _).mpr ⟨?_, fun x hx => ?_, fun r' => ?_⟩
    · rw [State.setRecord_queue, List.map_append, List.nodup_append_comm]
      exact List.nodup_cons.mpr ⟨hnew, hd⟩
    · rcases List.mem_append.mp hx with hx | hx
      · exact hc x hx
      · rw [List.mem_singleton.mp hx]
        exact hne
    · have hother : ({ s with queue := s.queue ++ [⟨r, c⟩] : State }.record r').any Record.queued = s.isQueued r' := rfl
      rw [State.isQueued, State.any_setRecord, hother, State.setRecord_queue, List.map_append, List.mem_append, hq]
      by_cases er : r' = r <;> simp [er, hlt]

/-- What every step can do keeps the change queue in agreement with the records. -/
theorem closed : Closed QueueOk where
  rest h hc := h.of_same hc.queue fun r => by rw [State.isQueued, State.isQueued, State.record_congr hc.records]
  completeAll l st h _ := by
    rw [foldl_complete]
    exact h.of_same rfl fun _ => rfl
  mapRequests _ h _ := h.of_same rfl fun _ => rfl
  record h hrec _ _ hqueued _ _ := h.setRecord (by simp [State.isQueued, hrec, hqueued])
  notify r c h := h.notify r c
  condition c on h := by
    obtain ⟨u, k, e⟩ := State.setCondition_eq _ c on
    rw [e]
    exact h.of_same rfl fun _ => rfl
  allocate h hrec _ hqueued _ _ := h.setRecord (by simp [State.isQueued, hrec, hqueued])
  reuse h _ _ _ hqueued _ _ := h.unqueue_setRecord (by simp [hqueued])
  free h _ := h.unqueue_setRecord rfl
  pop h hq := h.pop hq
  hold h hrec _ _ := by
    unfold State.takeHold
    rw [hrec]
    exact (h.setRecord (by simp [State.isQueued, hrec])).withHolds _
  unhold h hrec _ _ hqueued _ _ := (h.setRecord (by simp [State.isQueued, hrec, hqueued])).withHolds _
  dropHold h _ := h.withHolds _
  ageHolds h := h.withHolds _
  ageRecords h := h.of_same rfl fun r => by
    rw [State.isQueued, State.record_ageRecords, Option.any_map]
    rfl
  submit h _ _ := h.of_same rfl fun _ => rfl
  popCompletion h _ := h.of_same rfl fun _ => rfl
  clearConditions _ h := h.inhSettle _ _
  mask _ h := h.inhSettle _ _
  settings _ _ h := h.of_same rfl fun _ => rfl
  release h _ := h.of_same rfl fun _ => rfl
  countdown h _ _ := h.of_same rfl fun _ => rfl
  softReset _ := (queueOk_of_empty (s := State.softResetBlocks _) State.record_reset rfl).inhSettle _ 0
  hardReset _ := queueOk_of_empty State.record_reset rfl
  leave h _ := h.of_same rfl fun _ => rfl

end QueueOk

/-! ### The hold list -/

/-- Record `r` has an entry in the hold list. -/
def State.isHeld (s : State) (r : Nat) : Bool := (s.record r).any Record.held

/-- Record `r` has a shadow. -/
def State.isShadowed (s : State) (r : Nat) : Bool := (s.record r).any fun rec => rec.shadow.isSome

/-- The entry for record `r` leaves the hold list: the first step of `State.endHold` (R51). -/
def State.dropHold (s : State) (r : Nat) : State := { s with holds := s.holds.filter fun x => x.record ≠ r }

theorem State.endHold_eq (s : State) (r : Nat) : s.endHold r = (s.dropHold r).unholdRecord r := rfl

/-- The list names at most four records, each once, and exactly those whose held field is yes; only those have shadows. -/
theorem holdsOk_iff (s : State) :
    HoldsOk s ↔ s.holds.length ≤ 4 ∧ (s.holds.map Hold.record).Nodup ∧
      (∀ r, r ∈ s.holds.map Hold.record ↔ s.isHeld r = true) ∧ ∀ r, s.isShadowed r = true → s.isHeld r = true := by
  constructor
  · refine fun h => ⟨h.atMostFour, h.distinct, fun r => ?_, fun r hs => ?_⟩
    · cases hr : s.record r with
      | some rec => simpa [State.isHeld, hr] using (h.held_iff r rec hr).symm
      | none =>
        have hnot : r ∉ s.holds.map Hold.record := fun hmem => by
          obtain ⟨x, hx, rfl⟩ := List.mem_map.mp hmem
          obtain ⟨rec, hrec⟩ := h.inUse x hx
          simp [hr] at hrec
        simp [State.isHeld, hr, hnot]
    · obtain ⟨rec, hrec, hsh⟩ := Option.any_eq_true _ _ |>.mp hs
      exact Option.any_eq_true _ _ |>.mpr ⟨rec, hrec, h.shadow_held r rec hrec hsh⟩
  · rintro ⟨hlen, hd, hh, hs⟩
    refine ⟨hlen, hd, fun x hx => ?_, fun r rec hr => ?_, fun r rec hr hsh => ?_⟩
    · obtain ⟨rec, hrec, -⟩ := Option.any_eq_true _ _ |>.mp ((hh _).mp (List.mem_map_of_mem hx))
      exact ⟨rec, hrec⟩
    · simpa [State.isHeld, hr] using (hh r).symm
    · simpa [State.isHeld, State.isShadowed, hr, hsh] using hs r

namespace HoldsOk

variable {s t : State} {r : Nat} {o : Option Record}

/-- What names the same records, holds the same, and has no new shadow but of a held record keeps the invariant. -/
theorem of_same (h : HoldsOk s) (hh : t.holds.map Hold.record = s.holds.map Hold.record)
    (hr : ∀ r, t.isHeld r = s.isHeld r) (hs : ∀ r, t.isShadowed r = true → s.isShadowed r = true ∨ s.isHeld r = true) :
    HoldsOk t := by
  rw [holdsOk_iff] at h ⊢
  obtain ⟨hlen, hd, hheld, hsh⟩ := h
  have hlen' : t.holds.length = s.holds.length := by simpa using congrArg List.length hh
  exact ⟨hlen' ▸ hlen, hh ▸ hd, fun r => by rw [hh, hr, hheld], fun r x => by rw [hr]; exact (hs r x).elim (hsh r) id⟩

/-- What has the same hold list and the same records keeps the invariant. -/
theorem of_records (h : HoldsOk s) (hh : t.holds = s.holds) (hr : t.records = s.records) : HoldsOk t :=
  h.of_same (by rw [hh]) (fun r => congrArg (Option.any _) (State.record_congr hr r))
    fun r x => .inl ((congrArg (Option.any _) (State.record_congr hr r)).symm.trans x)

theorem setRecord (h : HoldsOk s) (ho : o.any Record.held = s.isHeld r)
    (hs : (o.any fun rec => rec.shadow.isSome) = true → s.isShadowed r = true ∨ s.isHeld r = true) :
    HoldsOk (s.setRecord r o) := by
  refine h.of_same rfl (State.any_setRecord_same ho) fun r' x => ?_
  rw [State.isShadowed, State.any_setRecord] at x
  split at x
  · subst r'
    exact hs (Bool.and_eq_true _ _ |>.mp x).2
  · exact .inl x

/-- A record without a hold and without a shadow takes the place of one that is not held. -/
theorem setRecord_unheld (h : HoldsOk s) (hr : s.isHeld r = false) (ho : o.any Record.held = false)
    (hs : (o.any fun rec => rec.shadow.isSome) = false) : HoldsOk (s.setRecord r o) :=
  h.setRecord (ho.trans hr.symm) fun x => by simp [hs] at x

theorem withQueue (q : List ChangeEntry) (h : HoldsOk s) : HoldsOk { s with queue := q } := h.of_records rfl rfl

theorem inhSettle (u : InhibitUnit) (n : Octet) (h : HoldsOk s) : HoldsOk ({ s with inh := u : State }.inhSettle n) := by
  obtain ⟨u', k, e⟩ := State.inhSettle_eq { s with inh := u } n
  rw [e]
  exact h.of_records rfl rfl

theorem notify (r : Nat) (c : BitVec 5) (h : HoldsOk s) : HoldsOk (s.notify r c) := by
  have hholds : (s.notify r c).holds = s.holds := by
    obtain ⟨rs, q, e⟩ := s.notify_eq r c
    rw [e]
  exact h.of_same (by rw [hholds]) (State.any_notify (fun _ _ => rfl) s r c) fun r' x =>
    .inl ((State.any_notify (fun _ _ => rfl) s r c r').symm.trans x)

/-- A hold is taken on a record that had none, with room in the list (R49). -/
theorem takeHold {rec : Record} (h : HoldsOk s) (hrec : s.record r = some rec) (hfree : rec.held = false)
    (hroom : s.holds.length < 4) : HoldsOk (s.takeHold r) := by
  obtain ⟨-, hd, hh, hs⟩ := (holdsOk_iff s).mp h
  have hlt := s.record_some_lt hrec
  have hnew : r ∉ s.holds.map Hold.record := by
    rw [hh, State.isHeld, hrec]
    simpa using hfree
  have htaken : s.takeHold r =
      { s with holds := s.holds ++ [⟨r, 0⟩] : State }.setRecord r (some { rec with held := true, shadow := none }) := by
    unfold State.takeHold
    rw [hrec]
  have hother : ∀ r', { s with holds := s.holds ++ [⟨r, 0⟩] : State }.record r' = s.record r' := fun _ => rfl
  have hheld : ∀ r', (s.takeHold r).isHeld r' = if r' = r then true else s.isHeld r' := fun r' => by
    rw [htaken, State.isHeld, State.any_setRecord, hother]
    simp [hlt, State.isHeld]
  rw [holdsOk_iff]
  refine ⟨?_, ?_, fun r' => ?_, fun r' x => ?_⟩
  · simpa [htaken] using hroom
  · rw [htaken, State.setRecord_holds, List.map_append, List.nodup_append_comm]
    exact List.nodup_cons.mpr ⟨hnew, hd⟩
  · rw [hheld, htaken, State.setRecord_holds, List.map_append, List.mem_append, hh]
    by_cases er : r' = r <;> simp [er]
  · rw [hheld]
    split
    · rfl
    · rw [htaken, State.isShadowed, State.any_setRecord, if_neg ‹_›] at x
      exact hs r' x

/-- A hold ends, and its record has neither hold nor shadow any more (R51). -/
theorem dropHold_setRecord (h : HoldsOk s) (ho : o.any Record.held = false)
    (hso : (o.any fun rec => rec.shadow.isSome) = false) : HoldsOk ((s.dropHold r).setRecord r o) := by
  obtain ⟨hlen, hd, hh, hs⟩ := (holdsOk_iff s).mp h
  have hnames : ((s.dropHold r).setRecord r o).holds.map Hold.record =
      (s.holds.map Hold.record).filter fun r' => r' ≠ r := by
    simp [State.dropHold, List.filter_map, Function.comp_def]
  have hother : ∀ r', (s.dropHold r).record r' = s.record r' := fun _ => rfl
  have hheld : ∀ r', ((s.dropHold r).setRecord r o).isHeld r' = if r' = r then false else s.isHeld r' := fun r' => by
    rw [State.isHeld, State.any_setRecord, ho, Bool.and_false, hother]
    rfl
  refine (holdsOk_iff _).mpr ⟨(List.length_filter_le ..).trans hlen, hnames ▸ hd.filter _, fun r' => ?_, fun r' x => ?_⟩
  · rw [hnames, List.mem_filter, hh, hheld]
    by_cases er : r' = r <;> simp [er]
  · rw [State.isShadowed, State.any_setRecord, hso, Bool.and_false] at x
    rw [hheld]
    split at x
    · cases x
    · rw [if_neg ‹_›]
      exact hs r' x

/-- For a FREE record the list has no entry to drop. -/
theorem dropHold_free (h : HoldsOk s) (hr : s.record r = none) : HoldsOk (s.dropHold r) := by
  have hall : s.holds.filter (fun x => x.record ≠ r) = s.holds := List.filter_eq_self.mpr fun x hx => by
    obtain ⟨rec, hrec⟩ := h.inUse x hx
    refine decide_eq_true fun e => ?_
    rw [e, hr] at hrec
    cases hrec
  exact h.of_records hall rfl

/-- What every step can do keeps the hold list in agreement with the records. -/
theorem closed : Closed HoldsOk where
  rest h hc := h.of_records hc.holds hc.records
  completeAll l st h _ := by
    rw [foldl_complete]
    exact h.of_records rfl rfl
  mapRequests _ h _ := h.of_records rfl rfl
  record h hrec _ _ _ hheld hshadow :=
    h.setRecord (by simp [State.isHeld, hrec, hheld]) (by simpa [State.isHeld, State.isShadowed, hrec] using hshadow)
  notify r c h := h.notify r c
  condition c on h := by
    obtain ⟨u, k, e⟩ := State.setCondition_eq _ c on
    rw [e]
    exact h.of_records rfl rfl
  allocate h hrec _ _ hheld hshadow :=
    h.setRecord_unheld (by simp [State.isHeld, hrec]) (by simp [hheld]) (by simp [hshadow])
  reuse h hrec hfree _ _ hheld hshadow :=
    (h.setRecord_unheld (by simp [State.isHeld, hrec, hfree]) (by simp [hheld]) (by simp [hshadow])).withQueue _
  free h hfree := (h.setRecord_unheld (by simpa [State.isHeld, Option.any_eq_false] using hfree) rfl rfl).withQueue _
  pop h _ := by
    unfold State.clearQueued
    split
    · exact h.withQueue _
    · rename_i hrec
      exact (h.withQueue _).setRecord (by simp [State.isHeld, hrec]) fun x => .inl (by simpa [State.isShadowed, hrec] using x)
  hold h hrec hfree hroom := h.takeHold hrec hfree hroom
  unhold h _ _ _ _ hheld hshadow := h.dropHold_setRecord (by simp [hheld]) (by simp [hshadow])
  dropHold h hrec := h.dropHold_free hrec
  ageHolds h := h.of_same (by simp [Function.comp_def, Hold.aged]) (fun _ => rfl) fun _ => .inl
  ageRecords h := h.of_same rfl (fun r => by rw [State.isHeld, State.record_ageRecords, Option.any_map]; rfl) fun r x => by
    rw [State.isShadowed, State.record_ageRecords, Option.any_map] at x
    exact .inl x
  submit h _ _ := h.of_records rfl rfl
  popCompletion h _ := h.of_records rfl rfl
  clearConditions _ h := h.inhSettle _ _
  mask _ h := h.inhSettle _ _
  settings _ _ h := h.of_records rfl rfl
  release h _ := h.of_records rfl rfl
  countdown h _ _ := h.of_records rfl rfl
  softReset _ := (holdsOk_of_empty (s := State.softResetBlocks _) State.record_reset rfl).inhSettle _ 0
  hardReset _ := holdsOk_of_empty State.record_reset rfl
  leave h _ := h.of_records rfl rfl

end HoldsOk

end Sys2Proof.Machine
end

section
/-! PROOF. What the window reads at its addresses (R189, R194). -/

namespace Sys2Proof.Machine

/-! ### Runs of octets -/

/-- An address within the window, as a number. -/
theorem toNat_addr {n : Nat} (h : n < 128) : (BitVec.ofNat 7 n).toNat = n := by
  rw [BitVec.toNat_ofNat]
  exact Nat.mod_eq_of_lt h

theorem readRegister_args (s : State) {k : Nat} (h : k < 4) :
    s.readRegister (BitVec.ofNat 7 (0x01 + k)) = (s.args[k]?).getD 0 := by
  have ha := toNat_addr (n := 0x01 + k) (by omega)
  simp (disch := omega) only [State.readRegister, ha, if_neg, if_pos, Nat.add_sub_cancel_left]

theorem readRegister_res (s : State) {k : Nat} (h : k < 6) :
    s.readRegister (BitVec.ofNat 7 (0x06 + k)) = (s.res[k]?).getD 0 := by
  have ha := toNat_addr (n := 0x06 + k) (by omega)
  simp (disch := omega) only [State.readRegister, ha, if_neg, if_pos, Nat.add_sub_cancel_left]

theorem readRegister_staging (s : State) {k : Nat} (h : k < 32) :
    s.readRegister (BitVec.ofNat 7 (0x20 + k)) = (s.staging[k]?).getD 0 := by
  have ha := toNat_addr (n := 0x20 + k) (by omega)
  simp (disch := omega) only [State.readRegister, ha, if_neg, if_pos, Nat.add_sub_cancel_left]

theorem readRegister_view (s : State) {k : Nat} (h : k < 48) :
    s.readRegister (BitVec.ofNat 7 (0x40 + k)) = (s.view[k]?).getD 0 := by
  have ha := toNat_addr (n := 0x40 + k) (by omega)
  simp (disch := omega) only [State.readRegister, ha, if_neg, if_pos, Nat.add_sub_cancel_left]

/-! ### Single octets -/

/-- The high octet of EVF or EVE shows the ninth flag alone (R195). -/
theorem flagOctet_high (v : BitVec 9) : flagOctet .high v = flagBit 0 (v.getLsbD 8) := by
  revert v
  decide

/-- PSTA holds the two link states side by side (R195). -/
theorem psta_eq (s : State) : s.psta = octetOf (s.portA.link.code.toNat + 4 * s.portB.link.code.toNat) := by
  unfold State.psta
  cases s.portA.link <;> cases s.portB.link <;> rfl

end Sys2Proof.Machine
end

section
/-! PROOF. The statements of the change queue's family. -/

namespace Sys2Proof.Machine

/-- Settles O58: both invariants are closed under everything that a step can do. -/
theorem queueAndHoldsInvariant : Obligations.QueueAndHoldsInvariant :=
  ⟨fun _ _ => QueueOk.closed.step, fun _ _ => HoldsOk.closed.step⟩

/-- Settles O11: on an empty queue, and on one with a head. -/
theorem changeQueueReads : Obligations.ChangeQueueReads := by
  intro s
  have hpop : exec .popChange s = execPopChange s := rfl
  rw [hpop, execPopChange]
  simp only [State.clearQueued_eq]
  obtain ⟨u, q, rfl⟩ : ∃ (u : State) (q : List ChangeEntry), s = { u with queue := q } := ⟨s, s.queue, rfl⟩
  cases q with
  | nil => exact ⟨rfl, rfl⟩
  | cons e rest => exact ⟨rfl, rfl⟩

/-- Settles O12: the runs of octets by address, the rest register by register. -/
theorem windowShowsState : Obligations.WindowShowsState := by
  intro s link rate result period held
  have hresult : s.rslt.code = result := by
    simp only [result]
    cases s.rslt <;> rfl
  have hperiod : s.epoch.eppRead = period := by
    simp only [period, EpochTimer.eppRead]
    cases s.epoch.pendingPeriod <;> cases s.epoch.period <;> rfl
  have hrate : ∀ ps : PortState, ps.storedRate.code = rate ps := fun ps => by
    simp only [rate]
    cases ps.storedRate <;> rfl
  have hlink : ∀ ps : PortState, ps.link.code.toNat = link ps := fun ps => by
    simp only [link]
    cases ps.link <;> rfl
  refine ⟨rfl, hresult, fun k => readRegister_args s, fun k => readRegister_res s, fun k => readRegister_staging s,
    fun k => readRegister_view s, rfl, ?rates, ?flags, rfl, ?firstCause, ?timer, rfl, ?status⟩
  case rates =>
    rw [← hrate, ← hrate]
    rfl
  case flags =>
    rw [← flagOctet_high, ← flagOctet_high]
    rfl
  case firstCause =>
    show [octetOf s.inh.firstCause.number, lowOctet s.inh.firstEpoch, highOctet s.inh.firstEpoch] = _
    cases s.inh.firstCause <;> rfl
  case timer =>
    rw [← hperiod, ← hlink, ← hlink, ← psta_eq]
    rfl
  case status =>
    have hasserted : s.inhAsserted = decide (s.inh.state ≠ .clear) :=
      Bool.eq_iff_iff.mpr (s.inh.state.inhAsserted_iff.trans decide_eq_true_iff.symm)
    rw [State.statusOctet, hasserted]

end Sys2Proof.Machine
end

section
/-! PROOF. Holds taken one after the other, and holds that end (R12, R49 to R52). -/

namespace Sys2Proof.Machine

/-! ### Taking holds -/

/-- Keeping every element of a vector keeps the vector. -/
theorem mapIdx_snd {α : Type} {n : Nat} (v : Vector α n) : v.mapIdx (fun _ x => x) = v :=
  Vector.ext fun i hi => by simp

/-- A record on which a hold is taken: held, and without a shadow (R49). -/
def Record.onHold (rec : Record) : Record := { rec with held := true, shadow := none }

/-- The holds on the records of `l`, taken in its order (R49, R50). -/
def State.holdsTaken (s : State) (l : List Nat) : State :=
  { s with
    holds := s.holds ++ l.map fun r => ⟨r, 0⟩
    records := s.records.mapIdx fun r o => if r ∈ l then o.map Record.onHold else o }

theorem State.record_holdsTaken (s : State) (l : List Nat) (r : Nat) :
    (s.holdsTaken l).record r = if r ∈ l then (s.record r).map Record.onHold else s.record r := by
  by_cases hr : r < 48
  · simp [State.record_eq_getElem _ hr, State.holdsTaken]
  · simp [State.record_of_le _ (by omega : 48 ≤ r)]

theorem State.holdsTaken_nil (s : State) : s.holdsTaken [] = s := by
  simp [State.holdsTaken, mapIdx_snd]

/-- A hold on an in-use record, wherever that record stands already in the holds taken. -/
theorem State.takeHold_holdsTaken {s : State} {l : List Nat} {r : Nat} {rec : Record} (hrec : s.record r = some rec) :
    (s.holdsTaken l).takeHold r = s.holdsTaken (l ++ [r]) := by
  have hlt := s.record_some_lt hrec
  obtain ⟨old, hold, hon⟩ : ∃ old, (s.holdsTaken l).record r = some old ∧ old.onHold = rec.onHold := by
    rw [State.record_holdsTaken, hrec]
    by_cases hl : r ∈ l
    · exact ⟨rec.onHold, if_pos hl, rfl⟩
    · exact ⟨rec, if_neg hl, rfl⟩
  have hrecords : ((s.holdsTaken l).setRecord r (some old.onHold)).records = (s.holdsTaken (l ++ [r])).records := by
    refine State.records_ext fun r' _ => ?_
    rw [State.record_setRecord, State.record_holdsTaken, State.record_holdsTaken]
    by_cases e : r' = r
    · subst r'
      simp [hlt, hrec, hon]
    · simp [e]
  have hholds : (s.holdsTaken l).holds ++ [⟨r, 0⟩] = (s.holdsTaken (l ++ [r])).holds := by simp [State.holdsTaken]
  unfold State.takeHold
  rw [hold]
  show { (s.holdsTaken l) with
    holds := (s.holdsTaken l).holds ++ [(⟨r, 0⟩ : Hold)]
    records := ((s.holdsTaken l).setRecord r (some old.onHold)).records } = _
  rw [hrecords, hholds]
  rfl

/-- Holds on in-use records, one after the other. -/
theorem foldl_takeHold {s : State} {l : List Nat} (h : ∀ r ∈ l, ∃ rec, s.record r = some rec) :
    l.foldl State.takeHold s = s.holdsTaken l := by
  induction l using List.reverseRecOn with
  | nil => exact s.holdsTaken_nil.symm
  | append_singleton l r ih =>
    obtain ⟨rec, hrec⟩ := h r (by simp)
    rw [List.foldl_append, ih fun r' hr' => h r' (by simp [hr']), List.foldl_cons, List.foldl_nil,
      State.takeHold_holdsTaken hrec]

/-! ### The checks of HOLD_SET -/

/-- The checks that HOLD_SET makes at position `k` of the indices it is given (R50). -/
def State.checkAt (s : State) (given : List Nat) (k : Nat) : ResultCode :=
  s.holdSetCheck k (given.take k) (given.getD k 0)

/-- The search for a failing check goes through the positions of the rest in order. -/
theorem State.holdSetFailure_eq (s : State) (earlier rest : List Nat) :
    s.holdSetFailure earlier.length earlier rest =
      ((List.range' earlier.length rest.length).find? fun k => s.checkAt (earlier ++ rest) k ≠ .ok).map fun k =>
        (k, s.checkAt (earlier ++ rest) k) := by
  induction rest generalizing earlier with
  | nil => rfl
  | cons r rest ih =>
    have hcheck : s.checkAt (earlier ++ r :: rest) earlier.length = s.holdSetCheck earlier.length earlier r := by
      simp [State.checkAt]
    have hrest := ih (earlier ++ [r])
    rw [List.length_append, List.length_singleton, List.append_assoc, List.singleton_append] at hrest
    unfold State.holdSetFailure
    rw [List.length_cons, List.range'_succ, List.find?_cons, hcheck, hrest]
    by_cases hok : s.holdSetCheck earlier.length earlier r = .ok
    · simp [hok]
    · simp [hok, hcheck]

/-- The first failing check of HOLD_SET, by positions (R50). -/
theorem State.holdSetFailure_start (s : State) (given : List Nat) :
    s.holdSetFailure 0 [] given =
      ((List.range given.length).find? fun k => s.checkAt given k ≠ .ok).map fun k => (k, s.checkAt given k) := by
  rw [List.range_eq_range']
  exact s.holdSetFailure_eq [] given

/-- An index that passes the checks of HOLD_SET names an in-use record. -/
theorem State.inUse_of_holdSetCheck {s : State} {k r : Nat} {earlier : List Nat}
    (h : s.holdSetCheck k earlier r = .ok) : ∃ rec, s.record r = some rec := by
  unfold State.holdSetCheck at h
  split at h
  · cases h
  · cases hr : s.record r with
    | none => simp [hr] at h
    | some rec => exact ⟨rec, rfl⟩

/-- Where every check passes, every index names an in-use record. -/
theorem State.inUse_of_checkAt {s : State} {given : List Nat}
    (h : (List.range given.length).find? (fun k => s.checkAt given k ≠ .ok) = none) {r : Nat} (hr : r ∈ given) :
    ∃ rec, s.record r = some rec := by
  obtain ⟨k, hk, rfl⟩ := List.getElem_of_mem hr
  have hok : s.checkAt given k = .ok := by simpa using List.find?_eq_none.mp h k (List.mem_range.mpr hk)
  have hget : given.getD k 0 = given[k] := by simp [hk]
  exact hget ▸ State.inUse_of_holdSetCheck hok

/-! ### Ending holds -/

/-- A payload that counts as an update of the record (R10). -/
def Record.countsPayload (rec : Record) (payload : List Octet) : Bool :=
  decide (payload ≠ rec.payload ∨ rec.policy = .onUpdate)

/-- The shadow of the record is applied with a notice when its hold ends (R10, R12). -/
def Record.unholdTells (rec : Record) : Bool :=
  rec.shadow.any fun sh => rec.countsPayload sh.payload && decide (rec.policy ≠ .silent)

/-- The record when its hold has ended: no longer held, and its shadow applied (R12). -/
def Record.unheld (rec : Record) : Record :=
  match rec.shadow with
  | none => { rec with held := false }
  | some sh =>
    { rec with
      held := false
      shadow := none
      sequence := sh.sequence
      payload := sh.payload
      updateCount := if rec.countsPayload sh.payload then rec.updateCount + 1 else rec.updateCount
      queued := rec.queued || rec.unholdTells }

/-- A record that is written, with the notice UPDATE where its payload counts as an update (R10). -/
theorem State.setRecord_notify_update (s : State) {r : Nat} (hr : r < 48) (rec : Record) (counts : Bool) :
    (s.setRecord r (some rec)).notify r (if counts then causeUpdate else 0) =
      { s with
        records := s.records.setIfInBounds r
          (some { rec with queued := rec.queued || (counts && decide (rec.policy ≠ .silent)) })
        queue :=
          if counts && decide (rec.policy ≠ .silent) then
            if rec.queued then mergeCauses r causeUpdate s.queue else s.queue ++ [⟨r, causeUpdate⟩]
          else s.queue } := by
  have htells : rec.tells (if counts then causeUpdate else 0) = (counts && decide (rec.policy ≠ .silent)) := by
    cases counts <;> simp [Record.tells, causeUpdate]
  rw [s.setRecord_notify hr, htells]
  cases counts <;> rfl

/-- The end of a hold on an in-use record (R12, R51). -/
theorem State.endHold_of_record {s : State} {r : Nat} {rec : Record} (hrec : s.record r = some rec) :
    s.endHold r =
      { s with
        holds := s.holds.filter fun h => h.record ≠ r
        records := s.records.setIfInBounds r (some rec.unheld)
        queue :=
          if rec.unholdTells then
            if rec.queued then mergeCauses r causeUpdate s.queue else s.queue ++ [⟨r, causeUpdate⟩]
          else s.queue } := by
  have hdropped : (s.dropHold r).record r = some rec := hrec
  rw [State.endHold_eq, State.unholdRecord, hdropped]
  dsimp only
  unfold Record.unheld Record.unholdTells
  cases hshadow : rec.shadow with
  | none => rfl
  | some sh =>
    have hcounts : (decide (sh.payload ≠ rec.payload) || decide (rec.policy = .onUpdate)) =
        rec.countsPayload sh.payload := (Bool.decide_or ..).symm
    dsimp only
    rw [Record.takePayload_eq]
    simp only [hcounts]
    exact State.setRecord_notify_update (s.dropHold r) (s.record_some_lt hrec) _ _

/-- Record `r` sends a notice when its hold ends. -/
def State.tellsUnhold (s : State) (r : Nat) : Bool := (s.record r).any Record.unholdTells

/-- An entry of the change queue once the holds on the records of `l` have expired (R32). -/
def State.unheldEntry (s : State) (l : List Nat) (q : ChangeEntry) : ChangeEntry :=
  if (l.contains q.record && s.tellsUnhold q.record) && s.isQueued q.record then
    { q with causes := q.causes ||| causeUpdate }
  else q

/-- The entries that the ends of the holds on the records of `l` add to the change queue (R31). -/
def State.unheldNews (s : State) (l : List Nat) : List ChangeEntry :=
  (l.filter fun r => s.tellsUnhold r && !s.isQueued r).map fun r => ⟨r, causeUpdate⟩

/-- The block once the holds on the records of `l` have expired, in its order (R52). -/
def State.holdsExpired (s : State) (l : List Nat) : State :=
  { s with
    holds := s.holds.filter fun h => !l.contains h.record
    records := s.records.mapIdx fun r o => if l.contains r then o.map Record.unheld else o
    queue := s.queue.map (s.unheldEntry l) ++ s.unheldNews l
    sticky := if l = [] then s.sticky else s.sticky ||| eventHoldExpired }

theorem State.holdsExpired_nil (s : State) : s.holdsExpired [] = s := by
  have hentry : s.unheldEntry [] = id := funext fun q => by simp [State.unheldEntry]
  simp [State.holdsExpired, State.unheldNews, hentry, mapIdx_snd]

theorem State.record_holdsExpired (s : State) (l : List Nat) (r : Nat) :
    (s.holdsExpired l).record r = if l.contains r then (s.record r).map Record.unheld else s.record r := by
  by_cases hr : r < 48
  · simp [State.record_eq_getElem _ hr, State.holdsExpired]
  · simp [State.record_of_le _ (by omega : 48 ≤ r)]

theorem mergeCauses_append (r : Nat) (c : BitVec 5) (xs ys : List ChangeEntry) :
    mergeCauses r c (xs ++ ys) = mergeCauses r c xs ++ mergeCauses r c ys := List.map_append

/-- No entry of the record, nothing to merge with. -/
theorem mergeCauses_of_notMem {r : Nat} {q : List ChangeEntry} (h : r ∉ q.map ChangeEntry.record) (c : BitVec 5) :
    mergeCauses r c q = q :=
  (List.map_congr_left fun e he => if_neg fun (x : e.record = r) => h (x ▸ List.mem_map_of_mem he)).trans
    (List.map_id q)

/-- The change queue after one more hold has expired. -/
theorem State.queue_holdsExpired_append {s : State} {l : List Nat} {r : Nat} {rec : Record} (hr : r ∉ l)
    (hrec : s.record r = some rec) :
    (s.holdsExpired (l ++ [r])).queue =
      if rec.unholdTells then
        if rec.queued then mergeCauses r causeUpdate (s.holdsExpired l).queue
        else (s.holdsExpired l).queue ++ [⟨r, causeUpdate⟩]
      else (s.holdsExpired l).queue := by
  have htells : s.tellsUnhold r = rec.unholdTells := by simp [State.tellsUnhold, hrec]
  have hqueued : s.isQueued r = rec.queued := by simp [State.isQueued, hrec]
  have hname : ∀ q, (s.unheldEntry l q).record = q.record := fun q => by
    unfold State.unheldEntry
    split <;> rfl
  have hentry : ∀ q, s.unheldEntry (l ++ [r]) q =
      if q.record = r ∧ (rec.unholdTells && rec.queued) = true then
        { s.unheldEntry l q with causes := (s.unheldEntry l q).causes ||| causeUpdate }
      else s.unheldEntry l q := fun q => by
    by_cases e : q.record = r
    · simp [State.unheldEntry, e, hr, htells, hqueued]
    · simp [State.unheldEntry, e]
  have hmerge : s.queue.map (s.unheldEntry (l ++ [r])) =
      if rec.unholdTells && rec.queued then mergeCauses r causeUpdate (s.queue.map (s.unheldEntry l))
      else s.queue.map (s.unheldEntry l) := by
    rw [funext hentry]
    cases rec.unholdTells && rec.queued <;> simp [mergeCauses, hname]
  have hnews : s.unheldNews (l ++ [r]) =
      s.unheldNews l ++ if rec.unholdTells && !rec.queued then [⟨r, causeUpdate⟩] else [] := by
    simp only [State.unheldNews, List.filter_append, List.filter_singleton, List.map_append, htells, hqueued]
    cases rec.unholdTells && !rec.queued <;> rfl
  have hnone : mergeCauses r causeUpdate (s.unheldNews l) = s.unheldNews l := by
    refine mergeCauses_of_notMem (fun h => hr ?_) _
    simp only [State.unheldNews, List.map_map, Function.comp_def, List.map_id'] at h
    exact (List.mem_filter.mp h).1
  simp only [State.holdsExpired, hmerge, hnews, mergeCauses_append, hnone]
  cases rec.unholdTells <;> cases rec.queued <;> simp

/-- One more hold expires. -/
theorem State.expireHold_holdsExpired {s : State} {l : List Nat} {r : Nat} {rec : Record} (hr : r ∉ l)
    (hrec : s.record r = some rec) : (s.holdsExpired l).expireHold r = s.holdsExpired (l ++ [r]) := by
  have hold : (s.holdsExpired l).record r = some rec := by simp [State.record_holdsExpired, hr, hrec]
  have hholds : (s.holdsExpired l).holds.filter (fun h => h.record ≠ r) = (s.holdsExpired (l ++ [r])).holds := by
    simp only [State.holdsExpired, List.filter_filter]
    refine List.filter_congr fun h _ => ?_
    by_cases e : h.record = r <;> simp [e]
  have hrecords : ((s.holdsExpired l).setRecord r (some rec.unheld)).records = (s.holdsExpired (l ++ [r])).records := by
    refine State.records_ext fun r' _ => ?_
    rw [State.record_setRecord, State.record_holdsExpired, State.record_holdsExpired]
    by_cases e : r' = r
    · subst r'
      simp [s.record_some_lt hrec, hrec]
    · simp [e]
  have hsticky : (s.holdsExpired l).sticky ||| eventHoldExpired = (s.holdsExpired (l ++ [r])).sticky := by
    by_cases hl : l = [] <;> simp [State.holdsExpired, hl, BitVec.or_assoc]
  rw [State.expireHold, State.endHold_of_record hold, hholds, ← State.queue_holdsExpired_append hr hrec]
  show { (s.holdsExpired l) with
    holds := (s.holdsExpired (l ++ [r])).holds
    records := ((s.holdsExpired l).setRecord r (some rec.unheld)).records
    queue := (s.holdsExpired (l ++ [r])).queue
    sticky := (s.holdsExpired l).sticky ||| eventHoldExpired } = _
  rw [hrecords, hsticky]
  rfl

/-- Holds on in-use records that expire one after the other (R52). -/
theorem foldl_expireHold {s : State} {l : List Nat} (hl : l.Nodup) (h : ∀ r ∈ l, ∃ rec, s.record r = some rec) :
    l.foldl State.expireHold s = s.holdsExpired l := by
  induction l using List.reverseRecOn with
  | nil => exact s.holdsExpired_nil.symm
  | append_singleton l r ih =>
    obtain ⟨rec, hrec⟩ := h r (by simp)
    obtain ⟨hl, -, hr⟩ := List.nodup_append'.mp hl
    rw [List.foldl_append, ih hl fun r' hr' => h r' (by simp [hr']), List.foldl_cons, List.foldl_nil,
      State.expireHold_holdsExpired (by simpa using hr) hrec]

/-! ### The mark of the record access unit -/

/-- A block for which a mark is outstanding takes it (entry 2). -/
theorem State.deliver_of_mem {s : State} {b : MarkBlock} (h : b ∈ s.marks) :
    s.deliver b = ({ s with marks := s.marks.erase b } : State).handleMark b := if_pos (by simpa using h)

/-- A block for which no mark is outstanding does nothing (entry 3). -/
theorem State.deliver_of_notMem {s : State} {b : MarkBlock} (h : b ∉ s.marks) : s.deliver b = s :=
  if_neg (by simpa using h)

/-- An outstanding mark at the record access unit, once the capture table has taken it (R52). -/
theorem State.takeMark_recordAccess {s : State} (hc : MarkBlock.captureTable ∉ s.marks)
    (h : MarkBlock.recordAccess ∈ s.marks) :
    s.takeMark .recordAccess = ({ s with marks := s.marks.erase .recordAccess } : State).markRecordAccess := by
  unfold State.takeMark
  rw [if_pos rfl, State.deliver_of_notMem hc, State.deliver_of_mem h]
  rfl

/-- The hold list after ageing names each record at most once, so that the holds which stay are those whose record no
expiring hold names. -/
theorem filter_holds_of_distinct {holds : List Hold} (hd : (holds.map Hold.record).Nodup) (expires : Hold → Bool) :
    holds.filter (fun h => !((holds.filter expires).map Hold.record).contains h.record) =
      holds.filter fun h => !expires h := by
  refine List.filter_congr fun h hh => congrArg not (Bool.eq_iff_iff.mpr ?_)
  rw [List.contains_iff_mem, List.mem_map]
  constructor
  · rintro ⟨x, hx, he⟩
    obtain ⟨hx, hex⟩ := List.mem_filter.mp hx
    exact List.inj_on_of_nodup_map hd hx hh he ▸ hex
  · exact fun he => ⟨h, List.mem_filter.mpr ⟨hh, he⟩, rfl⟩

end Sys2Proof.Machine
end

section
/-! PROOF. The statements of the holds. -/

namespace Sys2Proof.Machine

/-- Settles O15: the first failing position by `State.holdSetFailure_start`, the holds by `foldl_takeHold`. -/
theorem holdsAreTakenWhole : Obligations.HoldsAreTakenWhole := by
  intro s r count given check
  constructor
  · refine congrArg Host.Outcome.next (if_congr Iff.rfl rfl ?_)
    have hrec : (s.taken 0x28).record (s.taken 0x28).arg0 = s.record r := rfl
    rw [hrec]
    cases hx : s.record r with
    | none => rfl
    | some rec =>
      refine if_congr Iff.rfl rfl (if_congr Iff.rfl rfl ?_)
      have htake : (s.taken 0x28).takeHold (s.taken 0x28).arg0 =
          { s.taken 0x28 with holds := s.holds ++ [⟨r, 0⟩] : State }.setRecord r (some rec.onHold) := by
        unfold State.takeHold
        rw [hrec, hx]
        rfl
      have hlen : (s.holds ++ [(⟨r, 0⟩ : Hold)]).length = s.holds.length + 1 := List.length_append
      rw [htake, ← hlen]
      rfl
  · refine congrArg Host.Outcome.next ?_
    have hcheck : ∀ k, (s.taken 0x29).checkAt given k = check k := fun k => by
      unfold State.checkAt State.holdSetCheck
      refine if_congr Iff.rfl rfl ?_
      rw [show (s.taken 0x29).record (given.getD k 0) = s.record (given.getD k 0) from rfl]
      cases s.record (given.getD k 0) with
      | none => rfl
      | some rec => exact if_congr (by simp) rfl rfl
    by_cases hcount : count = 0 ∨ count > 4
    · exact (if_pos hcount).trans (if_pos hcount).symm
    · have hlen : given.length = count := by simp [given]; omega
      have hfailure := (s.taken 0x29).holdSetFailure_start given
      have hinUse := (s.taken 0x29).inUse_of_checkAt (given := given)
      simp only [hcheck, hlen] at hfailure hinUse
      refine (if_neg hcount).trans (Eq.trans ?_ (if_neg hcount).symm)
      rw [show (s.taken 0x29).holdSetIndices = given from rfl, hfailure]
      cases hfind : (List.range count).find? fun k => check k ≠ .ok with
      | some k => rfl
      | none =>
        have htaken : given.foldl State.takeHold (s.taken 0x29) = (s.taken 0x29).holdsTaken given :=
          foldl_takeHold fun r hr => hinUse hfind hr
        have hheld : ((s.taken 0x29).holdsTaken given).holds.length = s.holds.length + count := by
          simp [State.holdsTaken, hlen]
        simp only [Option.map_none, htaken, hheld]
        rfl

/-- Settles O16: an UNHOLD of a held record is the end of its hold (`State.endHold_of_record`). -/
theorem unholdAppliesShadow : Obligations.UnholdAppliesShadow := by
  intro s r rest answer
  refine congrArg Host.Outcome.next (if_congr Iff.rfl rfl ?_)
  have hrec : (s.taken 0x2A).record (s.taken 0x2A).arg0 = s.record r := rfl
  rw [hrec]
  cases hx : s.record r with
  | none => rfl
  | some rec =>
    have hend := State.endHold_of_record (hrec.trans hx)
    cases hheld : rec.held with
    | false => simp [hheld]; rfl
    | true =>
      simp only [hheld, if_true, Bool.true_eq_false, if_false, hend]
      cases hsh : rec.shadow with
      | none =>
        unfold Record.unheld Record.unholdTells
        simp only [hsh]
        rfl
      | some sh =>
        let counted := sh.payload ≠ rec.payload ∨ rec.policy = .onUpdate
        have hsent : rec.unholdTells = true ↔ counted ∧ rec.policy ≠ .silent := by
          simp [Record.unholdTells, hsh, Record.countsPayload, counted]
        have hcount : (if rec.countsPayload sh.payload then rec.updateCount + 1 else rec.updateCount) =
            if counted then rec.updateCount + 1 else rec.updateCount := if_congr decide_eq_true_iff rfl rfl
        have hqueued : (rec.queued || rec.unholdTells) =
            if counted ∧ rec.policy ≠ .silent then true else rec.queued := by
          by_cases h : counted ∧ rec.policy ≠ .silent
          · rw [if_pos h, hsent.mpr h, Bool.or_true]
          · rw [if_neg h, Bool.eq_false_iff.mpr (mt hsent.mp h), Bool.or_false]
        unfold Record.unheld
        simp only [hsh, hcount, hqueued]
        rw [if_congr hsent rfl rfl]
        rfl

/-- Settles O48, by the fold of the expiries over the aged list (`foldl_expireHold`). -/
theorem holdsAgeAndExpire : Obligations.HoldsAgeAndExpire := by
  intro s h hc hm aged expires gone counted sent told queued
  have hnames : aged.map Hold.record = s.holds.map Hold.record := by simp [aged, Function.comp_def]
  have hdistinct : (aged.map Hold.record).Nodup := hnames ▸ h.distinct
  have hgone : gone.Sublist (s.holds.map Hold.record) := hnames ▸ List.filter_sublist.map Hold.record
  let u : State := { s with marks := s.marks.erase .recordAccess, holds := aged }
  have hexpiring : u.expiringHolds = gone := by
    unfold State.expiringHolds
    by_cases hz : s.hlim = 0
    · simp [u, gone, expires, hz]
    · simp only [u, gone, expires, hz, ne_eq, not_false_eq_true, true_and, if_false]
  have hinUse : ∀ r ∈ gone, ∃ rec, u.record r = some rec := fun r hr => by
    obtain ⟨x, hx, rfl⟩ := List.mem_map.mp (hgone.subset hr)
    exact h.inUse x hx
  have hmark : s.takeMark .recordAccess = u.holdsExpired gone := by
    rw [State.takeMark_recordAccess hc hm, ← foldl_expireHold (h.distinct.sublist hgone) hinUse, ← hexpiring]
    rfl
  have hholds : u.holds.filter (fun h => !gone.contains h.record) = aged.filter fun h => !expires h :=
    filter_holds_of_distinct hdistinct expires
  have hnews : u.unheldNews gone = (gone.filter fun r => told r && !queued r).map fun r => ⟨r, 0x02⟩ :=
    congrArg (List.map _) (List.filter_congr fun r hr => by simp [told, hr]; rfl)
  have hrecords : ∀ r (x : Option Record), (if gone.contains r then x.map Record.unheld else x) = x.map fun rec =>
      if gone.contains r then rec.unheld else rec := fun r x => by
    cases gone.contains r <;> simp
  refine congrArg Host.Outcome.next (hmark.trans ?_)
  unfold State.holdsExpired
  simp only [hholds, hnews, hrecords]
  rfl

end Sys2Proof.Machine
end

section
/-! PROOF. Writes to the plain registers as the window shows them (R189, R194). -/

namespace Sys2Proof.Machine

/-- The plain register at the address takes the value (R53, R59, R88, R172, R190, R196). -/
def registerTakes (a : Addr) (v : Octet) : Prop :=
  (0x01 ≤ a ∧ a ≤ 0x04) ∨ (a = 0x13 ∧ v ≤ 1) ∨ a = 0x14 ∨ (0x20 ≤ a ∧ a ≤ 0x3F) ∨
  ((a = 0x70 ∨ a = 0x71) ∧ v ≤ 3) ∨ (a = 0x72 ∧ 2 ≤ v) ∨ (a = 0x73 ∧ 1 ≤ v) ∨
  (a = 0x74 ∧ 2 ≤ v ∧ v ≤ 15) ∨ ((a = 0x75 ∨ a = 0x76) ∧ 1 ≤ v) ∨ a = 0x77 ∨ (a = 0x78 ∧ v ≤ 1)

/-! ### Coded registers -/

theorem code_releaseModeOf {v : Octet} (h : v ≤ 1) (old : ReleaseMode) : ((releaseModeOf v).getD old).code = v := by
  revert v
  cases old <;> decide

theorem code_actionOf {v : Octet} (h : v ≤ 1) (old : Action) : ((actionOf v).getD old).code = v := by
  revert v
  cases old <;> decide

theorem code_bitRateOf {v : Octet} (h : v ≤ 3) (old : BitRate) : ((bitRateOf v).getD old).code = v := by
  revert v
  cases old <;> decide

theorem releaseModeOf_of_gt {v : Octet} (h : ¬v ≤ 1) : releaseModeOf v = none := by
  revert v
  decide

theorem actionOf_of_gt {v : Octet} (h : ¬v ≤ 1) : actionOf v = none := by
  revert v
  decide

theorem bitRateOf_of_gt {v : Octet} (h : ¬v ≤ 3) : bitRateOf v = none := by
  revert v
  decide

/-! ### The window after a write -/

/-- What a write to a plain register can be: one case per kind of register, and nothing at any other address (R189). -/
theorem State.writeRegister_cases (P : State → Prop) (s : State) (n : Nat) (v : Octet)
    (args : 0x01 ≤ n ∧ n ≤ 0x04 → P { s with args := s.args.setIfInBounds (n - 0x01) v })
    (mode : n = 0x13 → P { s with inh := { s.inh with mode := (releaseModeOf v).getD s.inh.mode } })
    (delay : n = 0x14 → P { s with inh := { s.inh with delay := v } })
    (staging : 0x20 ≤ n ∧ n ≤ 0x3F → P { s with staging := s.staging.setIfInBounds (n - 0x20) v })
    (rateA : n = 0x70 →
      P { s with portA := { s.portA with storedRate := (bitRateOf v).getD s.portA.storedRate } })
    (rateB : n = 0x71 →
      P { s with portB := { s.portB with storedRate := (bitRateOf v).getD s.portB.storedRate } })
    (tmo : n = 0x72 → P { s with tmo := ranged 2 255 s.tmo v })
    (qgap : n = 0x73 → P { s with qgap := ranged 1 255 s.qgap v })
    (silim : n = 0x74 → P { s with silim := ranged 2 15 s.silim v })
    (crct : n = 0x75 → P { s with crct := ranged 1 255 s.crct v })
    (crcw : n = 0x76 → P { s with crcw := ranged 1 255 s.crcw v })
    (hlim : n = 0x77 → P { s with hlim := v })
    (defa : n = 0x78 → P { s with defa := (actionOf v).getD s.defa })
    (other : P s) : P (s.writeRegister n v) := by
  have choose : ∀ {c : Prop} [Decidable c] {x y : State}, (c → P x) → P y → P (if c then x else y) :=
    fun hx hy => by split <;> [exact hx ‹_›; exact hy]
  exact choose args <| choose mode <| choose delay <| choose staging <| choose rateA <| choose rateB <|
    choose tmo <| choose qgap <| choose silim <| choose crct <| choose crcw <| choose hlim <| choose defa other

/-- A write changes the plain registers alone. -/
theorem State.writeRegister_frame (s : State) (n : Nat) (v : Octet) :
    let t := s.writeRegister n v
    t = { s with
          args := t.args, staging := t.staging, tmo := t.tmo, qgap := t.qgap, silim := t.silim, crct := t.crct
          crcw := t.crcw, hlim := t.hlim, defa := t.defa
          inh := { s.inh with mode := t.inh.mode, delay := t.inh.delay }
          portA := { s.portA with storedRate := t.portA.storedRate }
          portB := { s.portB with storedRate := t.portB.storedRate } } :=
  State.writeRegister_cases (fun t => t =
    { s with
      args := t.args, staging := t.staging, tmo := t.tmo, qgap := t.qgap, silim := t.silim, crct := t.crct
      crcw := t.crcw, hlim := t.hlim, defa := t.defa
      inh := { s.inh with mode := t.inh.mode, delay := t.inh.delay }
      portA := { s.portA with storedRate := t.portA.storedRate }
      portB := { s.portB with storedRate := t.portB.storedRate } }) s n v
    (fun _ => rfl) (fun _ => rfl) (fun _ => rfl) (fun _ => rfl) (fun _ => rfl) (fun _ => rfl) (fun _ => rfl)
    (fun _ => rfl) (fun _ => rfl) (fun _ => rfl) (fun _ => rfl) (fun _ => rfl) (fun _ => rfl) rfl

/-- Another argument register keeps its value. -/
theorem readRegister_setArg_ne (s : State) {n : Nat} (h : 0x01 ≤ n ∧ n ≤ 0x04) (v : Octet) {b : Addr}
    (hb : b.toNat ≠ n) :
    ({ s with args := s.args.setIfInBounds (n - 0x01) v } : State).readRegister b = s.readRegister b := by
  refine ite_congr rfl (fun _ => rfl) fun hcmd => ite_congr rfl (fun _ => ?_) fun _ => rfl
  exact congrArg (Option.getD · 0) (s.args.getElem?_setIfInBounds_ne (by omega))

/-- Another octet of the staging area keeps its value. -/
theorem readRegister_setStaging_ne (s : State) {n : Nat} (h : 0x20 ≤ n ∧ n ≤ 0x3F) (v : Octet) {b : Addr}
    (hb : b.toNat ≠ n) :
    ({ s with staging := s.staging.setIfInBounds (n - 0x20) v } : State).readRegister b = s.readRegister b := by
  unfold State.readRegister
  -- The 21 choices before the staging area read none of it.
  iterate 21 refine ite_congr rfl (fun _ => rfl) fun _ => ?_
  refine ite_congr rfl (fun _ => ?_) fun _ => rfl
  exact congrArg (Option.getD · 0) (s.staging.getElem?_setIfInBounds_ne (by omega))

/-- A write reaches no other address of the window. -/
theorem readRegister_writeRegister_ne (s : State) {a b : Addr} (v : Octet) (h : b ≠ a) :
    (s.writeRegister a.toNat v).readRegister b = s.readRegister b := by
  have hb : b.toNat ≠ a.toNat := fun e => h (BitVec.eq_of_toNat_eq e)
  generalize a.toNat = n at hb
  refine State.writeRegister_cases (fun t => t.readRegister b = s.readRegister b) s n v ?args ?mode ?delay ?staging
    ?rateA ?rateB ?tmo ?qgap ?silim ?crct ?crcw ?hlim ?defa rfl
  case args => exact fun hn => readRegister_setArg_ne s hn v hb
  case staging => exact fun hn => readRegister_setStaging_ne s hn v hb
  case mode | delay | rateA | rateB | tmo | qgap | silim | crct | crcw | hlim | defa =>
    rintro rfl
    simp only [State.readRegister, hb, if_false]
    rfl

/-- The condition of `registerTakes` in numbers. -/
theorem registerTakes_iff (a : Addr) (v : Octet) :
    registerTakes a v ↔
      (0x01 ≤ a.toNat ∧ a.toNat ≤ 0x04) ∨ (a.toNat = 0x13 ∧ v ≤ 1) ∨ a.toNat = 0x14 ∨
      (0x20 ≤ a.toNat ∧ a.toNat ≤ 0x3F) ∨ ((a.toNat = 0x70 ∨ a.toNat = 0x71) ∧ v ≤ 3) ∨
      (a.toNat = 0x72 ∧ 2 ≤ v.toNat) ∨ (a.toNat = 0x73 ∧ 1 ≤ v.toNat) ∨
      (a.toNat = 0x74 ∧ 2 ≤ v.toNat ∧ v.toNat ≤ 15) ∨ ((a.toNat = 0x75 ∨ a.toNat = 0x76) ∧ 1 ≤ v.toNat) ∨
      a.toNat = 0x77 ∨ (a.toNat = 0x78 ∧ v ≤ 1) := by
  simp only [registerTakes, BitVec.toNat_eq, BitVec.le_def]
  rfl

/-- A value outside the range of a register leaves it as it is. -/
theorem ranged_of_not {lo hi : Nat} {v : Octet} (h : ¬(lo ≤ v.toNat ∧ v.toNat ≤ hi)) (old : Octet) :
    ranged lo hi old v = old := if_neg h

/-- Where the register does not take the value, or there is no register, nothing changes. -/
theorem State.writeRegister_refused (s : State) {a : Addr} {v : Octet} (h : ¬registerTakes a v) :
    s.writeRegister a.toNat v = s := by
  rw [registerTakes_iff] at h
  have hv := v.isLt
  generalize a.toNat = n at h
  refine State.writeRegister_cases (fun t => t = s) s n v ?args ?mode ?delay ?staging
    ?rateA ?rateB ?tmo ?qgap ?silim ?crct ?crcw ?hlim ?defa rfl
  case args | delay | staging | hlim => exact fun hn => absurd hn (by omega)
  case mode =>
    rintro rfl
    rw [releaseModeOf_of_gt (by simpa using h)]
    rfl
  case rateA | rateB =>
    rintro rfl
    rw [bitRateOf_of_gt (by simpa using h)]
    rfl
  case defa =>
    rintro rfl
    rw [actionOf_of_gt (by simpa using h)]
    rfl
  case tmo | qgap | silim | crct | crcw =>
    rintro rfl
    rw [ranged_of_not (by omega)]

/-- Where the register takes the value, the address reads as written. -/
theorem readRegister_writeRegister_same (s : State) {a : Addr} {v : Octet} (h : registerTakes a v) :
    (s.writeRegister a.toNat v).readRegister a = v := by
  have hv := v.isLt
  have hrange : ∀ {lo hi : Nat} (old : Octet), lo ≤ v.toNat ∧ v.toNat ≤ hi → ranged lo hi old v = v :=
    fun _ hr => if_pos hr
  rcases h with hn | ⟨rfl, hm⟩ | rfl | hn | ⟨rfl | rfl, hr⟩ | ⟨rfl, hr⟩ | ⟨rfl, hr⟩ | ⟨rfl, hr⟩ | ⟨rfl | rfl, hr⟩ |
    rfl | ⟨rfl, hd⟩
  · obtain ⟨k, hk, rfl⟩ : ∃ k < 4, a = BitVec.ofNat 7 (0x01 + k) := ⟨a.toNat - 0x01, by bv_omega, by bv_omega⟩
    rw [readRegister_args _ hk, toNat_addr (by omega)]
    simp (disch := omega) only [State.writeRegister, if_pos, Nat.add_sub_cancel_left]
    simp [hk]
  · exact code_releaseModeOf hm _
  · rfl
  · obtain ⟨k, hk, rfl⟩ : ∃ k < 32, a = BitVec.ofNat 7 (0x20 + k) := ⟨a.toNat - 0x20, by bv_omega, by bv_omega⟩
    rw [readRegister_staging _ hk, toNat_addr (by omega)]
    simp (disch := omega) only [State.writeRegister, if_neg, if_pos, Nat.add_sub_cancel_left]
    simp [hk]
  · exact code_bitRateOf hr _
  · exact code_bitRateOf hr _
  · exact hrange _ ⟨hr, by omega⟩
  · exact hrange _ ⟨hr, by omega⟩
  · exact hrange _ hr
  · exact hrange _ ⟨hr, by omega⟩
  · exact hrange _ ⟨hr, by omega⟩
  · rfl
  · exact code_actionOf hd _

end Sys2Proof.Machine
end

section
/-! PROOF. The statement of the plain registers. -/

namespace Sys2Proof.Machine

/-- Settles O35: a write reads back at its own address alone, and only where the register takes it. -/
theorem registerWritesReadBack : Obligations.RegisterWritesReadBack := by
  intro s a v hplain takes
  have hexec : exec (.registerWrite a v) s = .next (s.writeRegister a.toNat v) :=
    if_pos (by simpa [plainAddressOk] using hplain)
  refine ⟨s.writeRegister a.toNat v, hexec, fun b => ?_, s.writeRegister_frame a.toNat v, s.writeRegister_refused⟩
  by_cases hb : b = a
  · subst b
    by_cases ht : takes
    · rw [if_pos ⟨rfl, ht⟩, readRegister_writeRegister_same s ht]
    · rw [if_neg fun x => ht x.2, s.writeRegister_refused ht]
  · rw [if_neg fun x => hb x.1, readRegister_writeRegister_ne s v hb]

end Sys2Proof.Machine
end

section
/-! PROOF. A block that takes the mark changes the outstanding marks by its own alone, so that one round over the blocks
leaves none (R47, R158). -/

namespace Sys2Proof.Machine

variable (s : State)

/-! ### Operations that leave the outstanding marks alone -/

/-- A fold of what leaves the outstanding marks alone leaves them alone. -/
theorem marks_foldl {α : Type} {f : State → α → State} (hf : ∀ s a, (f s a).marks = s.marks) (l : List α) (s : State) :
    (l.foldl f s).marks = s.marks :=
  foldl_keeps (P := fun t => t.marks = s.marks) (fun t a h => (hf t a).trans h) l rfl

@[simp] theorem State.modPort_marks (p : Port) (f : PortState → PortState) : (s.modPort p f).marks = s.marks := by
  simp [State.modPort]

@[simp] theorem State.modNode_marks (e : Nat) (f : NodeEntry → NodeEntry) : (s.modNode e f).marks = s.marks := rfl

@[simp] theorem State.notify_marks (r : Nat) (c : BitVec 5) : (s.notify r c).marks = s.marks := by
  obtain ⟨rs, q, h⟩ := s.notify_eq r c
  rw [h]

@[simp] theorem State.setCondition_marks (c : Condition) (on : Bool) : (s.setCondition c on).marks = s.marks := by
  obtain ⟨u, k, h⟩ := s.setCondition_eq c on
  rw [h]

@[simp] theorem State.orphanRecord_marks (r : Nat) : (s.orphanRecord r).marks = s.marks := by
  unfold State.orphanRecord
  split
  · rfl
  · split <;> simp

@[simp] theorem State.nodeNotice_marks (e : Nat) : (s.nodeNotice e).marks = s.marks := by
  simp [State.nodeNotice, marks_foldl State.orphanRecord_marks]

@[simp] theorem State.nodeChanged_marks (e : Nat) : (s.nodeChanged e).marks = s.marks := rfl

@[simp] theorem State.nodeMiss_marks (e : Nat) : (s.nodeMiss e).marks = s.marks := by
  unfold State.nodeMiss
  dsimp only
  split
  · rfl
  · split
    · split <;> simp
    · rfl

@[simp] theorem State.pollFailed_marks (e : Nat) (b : Bool) : (s.pollFailed e b).marks = s.marks := by
  unfold State.pollFailed
  split <;> simp

@[simp] theorem State.reportFailed_marks (p : Port) (t : Transaction) : (s.reportFailed p t).marks = s.marks := by
  have hdrop : (s.dropTransaction p).marks = s.marks := s.modPort_marks p _
  unfold State.reportFailed
  dsimp only
  split
  · split
    · split <;> simp [hdrop]
    · exact hdrop
  · split <;> simp [hdrop]

@[simp] theorem State.requestCandidate_marks (p : Port) (l : List Request) :
    (s.requestCandidate p l).1.marks = s.marks := by
  obtain ⟨k, h⟩ := Calm.requestCandidate_eq p l s
  rw [h, marks_foldl fun (s : State) q => s.complete_marks q .nodeAbsent]

@[simp] theorem State.startAttempt_marks (p : Port) (t : Transaction) : (s.startAttempt p t).marks = s.marks := by
  unfold State.startAttempt
  dsimp only
  split <;> simp

@[simp] theorem State.grantPoll_marks (p : Port) (e : Nat) : (s.grantPoll p e).marks = s.marks := by
  simp [State.grantPoll]

@[simp] theorem State.grantRequest_marks (p : Port) (q : Request) : (s.grantRequest p q).marks = s.marks := by
  simp [State.grantRequest]

@[simp] theorem State.grantFirst_marks (p : Port) : (s.grantFirst p).marks = s.marks := by
  unfold State.grantFirst
  dsimp only
  split
  · split <;> simp
  all_goals simp

@[simp] theorem State.evaluate_marks (p : Port) : (s.evaluate p).marks = s.marks := by
  unfold State.evaluate
  split
  · split
    · simp
    · split
      · split <;> simp
      · rfl
  · rfl

@[simp] theorem State.evaluatePorts_marks (ps : List Port) : (s.evaluatePorts ps).marks = s.marks := by
  unfold State.evaluatePorts
  split
  · dsimp only
    split <;> simp
  · exact marks_foldl State.evaluate_marks ps s

@[simp] theorem afterInhibit_marks (t : State) : (afterInhibit s t).marks = t.marks := by
  unfold afterInhibit
  split
  · exact t.evaluatePorts_marks _
  · rfl

@[simp] theorem State.report_marks (c : Condition) (on : Bool) : (s.report c on).marks = s.marks := by
  simp [State.report]

@[simp] theorem State.fallDue_marks (e : Nat) : (s.fallDue e).marks = s.marks := by
  unfold State.fallDue
  dsimp only
  split <;> simp

/-! ### What each block does with the mark -/

theorem State.staleRecord_marks (r : Nat) : (s.staleRecord r).marks = s.marks := by
  unfold State.staleRecord
  split
  · rfl
  · split
    · dsimp only
      split <;> simp [State.reportDataStale]
    · rfl

theorem State.expireHold_marks (r : Nat) : (s.expireHold r).marks = s.marks := by
  show (s.endHold r).marks = s.marks
  cases hr : s.record r with
  | none =>
    have hdropped : (s.dropHold r).record r = none := hr
    rw [State.endHold_eq, State.unholdRecord, hdropped]
    rfl
  | some rec => rw [State.endHold_of_record hr]

theorem State.countEntry_marks (e : Nat) : (s.countEntry e).marks = s.marks := by
  unfold State.countEntry
  dsimp only
  split
  · split <;> simp
  · rfl

theorem State.markRequestPool_marks : s.markRequestPool.marks = s.marks := by
  simp [State.markRequestPool, marks_foldl fun (s : State) q => s.complete_marks q .expired]

theorem State.markCrcWindow_marks (p : Port) : (s.markCrcWindow p).marks = s.marks := by
  unfold State.markCrcWindow
  dsimp only
  split
  · split <;> simp
  · rfl

theorem State.markInhibitUnit_marks : s.markInhibitUnit.marks = s.marks := by
  unfold State.markInhibitUnit
  split
  · split
    · exact afterInhibit_marks s s.inhRelease
    · rfl
  all_goals rfl

/-- Handling a mark makes no other outstanding, and takes none. -/
theorem State.handleMark_marks (b : MarkBlock) : (s.handleMark b).marks = s.marks := by
  cases b with
  | captureTable => exact marks_foldl State.staleRecord_marks _ s.ageRecords
  | recordAccess => exact marks_foldl State.expireHold_marks _ { s with holds := s.holds.map Hold.aged }
  | nodeTable => exact marks_foldl State.countEntry_marks _ s
  | requestPool => exact s.markRequestPool_marks
  | crcWindow p => exact s.markCrcWindow_marks p
  | inhibitUnit => exact s.markInhibitUnit_marks

/-! ### A round over the blocks -/

theorem State.deliver_marks (b : MarkBlock) : (s.deliver b).marks = s.marks.erase b := by
  by_cases h : b ∈ s.marks
  · rw [State.deliver_of_mem h, State.handleMark_marks]
  · rw [State.deliver_of_notMem h, List.erase_of_not_mem h]

/-- A block that takes its mark has none outstanding then, where none had one twice. -/
theorem State.takeMark_marks {s : State} (h : s.marks.Nodup) (b : MarkBlock) :
    (s.takeMark b).marks.Sublist s.marks ∧ b ∉ (s.takeMark b).marks := by
  unfold State.takeMark
  split
  · subst b
    rw [State.deliver_marks, State.deliver_marks]
    exact ⟨List.erase_sublist.trans List.erase_sublist, (h.erase _).not_mem_erase⟩
  · rw [State.deliver_marks]
    exact ⟨List.erase_sublist, h.not_mem_erase⟩

/-- After several blocks have taken the mark, none of them has one outstanding. -/
theorem State.takeMarks_marks (bs : List MarkBlock) {s : State} (h : s.marks.Nodup) :
    (s.takeMarks bs).marks.Sublist s.marks ∧ ∀ b ∈ bs, b ∉ (s.takeMarks bs).marks := by
  induction bs generalizing s with
  | nil => exact ⟨List.Sublist.refl _, by simp⟩
  | cons b bs ih =>
    obtain ⟨hsub, hb⟩ := State.takeMark_marks h b
    obtain ⟨hrest, hbs⟩ := ih (s := s.takeMark b) (h.sublist hsub)
    refine ⟨hrest.trans hsub, fun b' hb' => ?_⟩
    rcases List.mem_cons.mp hb' with rfl | hb'
    · exact fun x => hb (hrest.subset x)
    · exact hbs b' hb'

theorem markBlock_mem_all (b : MarkBlock) : b ∈ MarkBlock.all := by
  cases b with
  | crcWindow p => cases p <;> decide
  | _ => decide

/-- A view meets no outstanding mark (R47). -/
theorem State.wholeMark_marks {s : State} (h : s.marks.Nodup) : s.wholeMark.marks = [] :=
  List.eq_nil_iff_forall_not_mem.mpr fun b => (State.takeMarks_marks MarkBlock.all h).2 b (markBlock_mem_all b)

/-- With no mark outstanding a view changes nothing by taking them. -/
theorem State.wholeMark_of_none {s : State} (h : s.marks = []) : s.wholeMark = s := by
  have hdeliver : ∀ b, s.deliver b = s := fun b => State.deliver_of_notMem (by simp [h])
  have htake : ∀ b, s.takeMark b = s := fun b => by
    unfold State.takeMark
    split <;> simp [hdeliver]
  unfold State.wholeMark State.takeMarks
  exact foldl_keeps (P := fun t => t = s) (s := s) (fun t b ht => by rw [ht, htake]) MarkBlock.all rfl

end Sys2Proof.Machine
end

section
/-! PROOF. The octets of a view (R44, R46, R197). -/

namespace Sys2Proof.Machine

theorem lowOctet_epoch16 (s : State) : lowOctet s.epoch16 = s.epoch.count.truncate 8 := by
  simp only [lowOctet, State.epoch16, BitVec.truncate_eq_setWidth]
  exact BitVec.setWidth_setWidth_of_le _ (by decide)

theorem highOctet_epoch16 (s : State) : highOctet s.epoch16 = (s.epoch.count >>> 8).truncate 8 := by
  refine BitVec.eq_of_getLsbD_eq fun i hi => ?_
  simp [highOctet, State.epoch16, hi]
  omega

/-- The two octets of a counter, low octet first (R46). -/
theorem count16_eq (n : Nat) : count16 n = [octetOf (n % 256), octetOf (n / 256)] := by
  have hlow : lowOctet (BitVec.ofNat 16 n) = octetOf (n % 256) :=
    BitVec.eq_of_toNat_eq (by simp [lowOctet, octetOf])
  have hhigh : highOctet (BitVec.ofNat 16 n) = octetOf (n / 256) :=
    BitVec.eq_of_toNat_eq (by simp [highOctet, octetOf, Nat.shiftRight_eq_div_pow]; omega)
  rw [count16, hlow, hhigh]

/-- The copy epoch is the low half of the epoch count (R44). -/
theorem copyEpoch_eq (s : State) :
    s.copyEpoch = [s.epoch.count.truncate 8, (s.epoch.count >>> 8).truncate 8] := by
  rw [State.copyEpoch, lowOctet_epoch16, highOctet_epoch16]

/-- A port code names a port, and any other value none (R196). -/
theorem portOf_cases (v : Octet) :
    (v.toNat > 1 ∧ portOf v = none) ∨
    (¬v.toNat > 1 ∧ portOf v = some (if v = 0 then .A else .B) ∧ portCode (if v = 0 then .A else .B) = v) := by
  revert v
  decide

/-- A view without octets reads 0 throughout (R42, R43). -/
theorem viewOctets_nil : viewOctets [] = Vector.replicate 48 0 := by decide

end Sys2Proof.Machine
end

section
/-! PROOF. The statements of the views. -/

namespace Sys2Proof.Machine

/-- Settles O8: on the state after the marks (`State.wholeMark_marks`), for a FREE record and for one in use. -/
theorem viewRecordCopies : Obligations.ViewRecordCopies := by
  intro s r u shown
  have hu : s.wholeMark = u := rfl
  have hexec : exec .viewRecord s = execViewRecord s := rfl
  refine ⟨fun h => hu ▸ State.wholeMark_of_none h, fun h => hu ▸ State.wholeMark_marks h, ?_⟩
  rw [hexec, execViewRecord, hu]
  clear_value u
  refine congrArg Host.Outcome.next (if_congr Iff.rfl rfl ?_)
  have hrec : (u.taken 0x10).record s.arg0 = u.record r := rfl
  dsimp only
  rw [hrec]
  cases u.record r with
  | none =>
    show ((u.taken 0x10).result .noRecord []).showView [] = _
    rw [State.showView, viewOctets_nil]
    rfl
  | some rec =>
    have hage : octetOf (u.holdAge r) = match u.holds.find? fun h => h.record = r with
        | some h => octetOf h.age
        | none => 0 := by
      unfold State.holdAge
      cases u.holds.find? fun h => h.record = r <;> rfl
    show ((u.taken 0x10).result .ok []).showView (u.recordView r rec) = _
    refine congrArg ((u.taken 0x10).result .ok []).showView ?_
    rw [State.recordView, hage, copyEpoch_eq, List.append_assoc]
    rfl

/-- Settles O9: on the state after the marks, for a VACANT entry and for any other. -/
theorem viewNodeCopies : Obligations.ViewNodeCopies := by
  intro s e u n shown
  have hu : s.wholeMark = u := rfl
  have hexec : exec .viewNode s = execViewNode s := rfl
  rw [hexec, execViewNode, hu]
  clear_value u
  refine congrArg Host.Outcome.next (if_congr Iff.rfl rfl ?_)
  refine congrArg ((u.taken 0x11).result .ok []).showView (?_ : u.nodeView e = _)
  rw [State.nodeView, copyEpoch_eq]
  by_cases hv : n.state = .vacant
  · rw [if_pos hv, if_pos hv]
  · rw [if_neg hv, if_neg hv]
    rfl

/-- Settles O10: by the port code (`portOf_cases`), on the state after the marks. -/
theorem viewPortCopies : Obligations.ViewPortCopies := by
  intro s u ps two shown
  have hu : s.wholeMark = u := rfl
  have hexec : exec .viewPort s = execViewPort s := rfl
  rw [hexec, execViewPort, hu]
  clear_value u
  refine congrArg Host.Outcome.next ?_
  rcases portOf_cases (s.arg 0) with ⟨hbad, hnone⟩ | ⟨hgood, hp, hcode⟩
  · rw [hnone, if_pos hbad]
    rfl
  · rw [hp, if_neg hgood]
    refine congrArg ((u.taken 0x12).result .ok []).showView (?_ : u.portView _ = _)
    rw [State.portView, hcode, copyEpoch_eq]
    simp only [count16_eq]
    rfl

end Sys2Proof.Machine
end

section
/-! PROOF. The staged filter by the checks of FILTER_SET (R66, R196). -/

namespace Sys2Proof.Machine

/-! ### Codes read from the host, as ranges of the octet -/

theorem yesNoOf_eq (v : Octet) : yesNoOf v = if v.toNat > 1 then none else some (decide (v.toNat = 1)) := by
  revert v
  decide

theorem portMatchOf_eq (v : Octet) :
    portMatchOf v = if v.toNat > 2 then none
      else some (if v.toNat = 0 then .only .A else if v.toNat = 1 then .only .B else .either) := by
  revert v
  decide

theorem actionOf_eq (v : Octet) :
    actionOf v = if v.toNat > 1 then none else some (if v.toNat = 0 then .discard else .capture) := by
  revert v
  decide

theorem policyOf_eq (v : Octet) :
    policyOf v = if v.toNat > 2 then none
      else some (if v.toNat = 0 then .onChange else if v.toNat = 1 then .onUpdate else .silent) := by
  revert v
  decide

theorem inRange_eq (lo hi : Nat) (v : Octet) :
    inRange lo hi v = if v.toNat < lo ∨ v.toNat > hi then none else some v.toNat := by
  unfold inRange
  by_cases h : lo ≤ v.toNat ∧ v.toNat ≤ hi
  · rw [if_pos h, if_neg (by omega)]
  · rw [if_neg h, if_pos (by omega)]

/-- A checked field stops the reading of the staging area where its check fails. -/
theorem guarded_bind {α β : Type} (c : Prop) [Decidable c] (a : α) (f : α → Option β) :
    (if c then none else some a).bind f = if c then none else f a := by
  split <;> rfl

/-! ### The staged filter -/

/-- Check 3 of FILTER_SET fails (R66). -/
abbrev State.BadMatch (s : State) : Prop :=
  (s.stg 1).toNat > 2 ∨ (s.stg 2).toNat < 1 ∨ (s.stg 2).toNat > 62 ∨ (s.stg 3).toNat < 1 ∨ (s.stg 3).toNat > 62 ∨
    (s.stg 4).toNat > 127 ∨ (s.stg 5).toNat > 127 ∨ (s.stg 6).toNat > 1

/-- Check 4 of FILTER_SET fails (R66). -/
abbrev State.BadCapture (s : State) : Prop := (s.stg 7).toNat > 2 ∨ (s.stg 9).toNat > 1 ∨ (s.stg 10).toNat > 1

/-- The filter that the staging area asks for where its action is DISCARD (R58, R196). -/
def State.discardFilter (s : State) : Filter :=
  { Filter.disabled with
    enabled := true
    portMatch := if (s.stg 1).toNat = 0 then .only .A else if (s.stg 1).toNat = 1 then .only .B else .either
    addressLow := (s.stg 2).toNat, addressHigh := (s.stg 3).toNat
    typeValue := (s.stg 4).truncate 7, typeMask := (s.stg 5).truncate 7 }

/-- The filter that the staging area asks for where its action is CAPTURE (R58, R196). -/
def State.captureFilter (s : State) : Filter :=
  { s.discardFilter with
    action := .capture
    policy := if (s.stg 7).toNat = 0 then .onChange else if (s.stg 7).toNat = 1 then .onUpdate else .silent
    staleLimit := (s.stg 8).toNat
    inhibit := decide ((s.stg 9).toNat = 1), pinOnAllocate := decide ((s.stg 10).toNat = 1) }

/-- The checks 2 to 4 of FILTER_SET in their order, and the filter that each way through them stores (R66). -/
theorem State.stagedFilter_eq (s : State) :
    s.stagedFilter =
      if (s.stg 0).toNat > 1 then none
      else if (s.stg 0).toNat = 0 then some Filter.disabled
      else if s.BadMatch then none
      else if (s.stg 6).toNat = 0 then some s.discardFilter
      else if s.BadCapture then none
      else some s.captureFilter := by
  simp only [State.stagedFilter, yesNoOf_eq, portMatchOf_eq, inRange_eq, actionOf_eq, policyOf_eq, bind, guarded_bind,
    ← ite_or, or_assoc, Nat.not_lt_zero, false_or]
  by_cases hflag : (s.stg 0).toNat > 1
  · rw [if_pos hflag, if_pos hflag]
  rw [if_neg hflag, if_neg hflag]
  by_cases hoff : (s.stg 0).toNat = 0
  · rw [if_pos hoff, if_neg (by simp [hoff])]
    rfl
  rw [if_neg hoff, if_pos (decide_eq_true (by omega))]
  refine if_congr Iff.rfl rfl ?_
  by_cases haction : (s.stg 6).toNat = 0
  · simp only [if_pos haction, BitVec.ofNat_toNat]
    rfl
  · simp only [if_neg haction, BitVec.ofNat_toNat]
    rfl

/-! ### The answer -/

/-- The state after FILTER_SET with the filter it stores, or with none where a check fails (R66). -/
def State.filterAnswer (s : State) : Option Filter → State
  | none => (s.taken 0x30).result .badArgument []
  | some f =>
    let t := { s.taken 0x30 with filters := s.filters.setIfInBounds s.arg0 f }
    t.result .ok [octetOf t.enabledFilters]

/-- The index check and a failed field check of FILTER_SET are refused alike (R66). -/
theorem exec_filterSet_eq (s : State) :
    exec .filterSet s = .next (s.filterAnswer (if s.arg0 > 15 then none else s.stagedFilter)) := by
  have hstaged : (s.taken 0x30).stagedFilter = s.stagedFilter := rfl
  have hexec : exec .filterSet s = execFilterSet s := rfl
  rw [hexec, execFilterSet, hstaged, apply_ite s.filterAnswer]
  refine congrArg Host.Outcome.next (if_congr Iff.rfl rfl ?_)
  cases s.stagedFilter <;> rfl

end Sys2Proof.Machine
end

section
/-! PROOF. The tests of a filter on an item, and the filter that decides (R61 to R64). -/

namespace Sys2Proof.Machine

theorem PortMatch.accepts_iff (m : PortMatch) (p : Port) : m.accepts p = true ↔ m = .either ∨ m = .only p := by
  cases m <;> simp [PortMatch.accepts]

/-- The type test compares the bits that the mask names, and no other (R61). -/
theorem typeTest_iff (t v m : ItemType) :
    t &&& m = v &&& m ↔ ∀ b < 7, m.getLsbD b = true → t.getLsbD b = v.getLsbD b := by
  constructor
  · intro h b _ hm
    have hb := congrArg (BitVec.getLsbD · b) h
    simpa [hm] using hb
  · intro h
    refine BitVec.eq_of_getLsbD_eq fun b hb => ?_
    rw [BitVec.getLsbD_and, BitVec.getLsbD_and]
    cases hm : m.getLsbD b with
    | false => rw [Bool.and_false, Bool.and_false]
    | true => rw [h b hb hm]

theorem Filter.accepts_iff (f : Filter) (p : Port) (address : Nat) (t : ItemType) :
    f.accepts p address t = true ↔
      f.enabled = true ∧ (f.portMatch = .either ∨ f.portMatch = .only p) ∧ f.addressLow ≤ address ∧
        address ≤ f.addressHigh ∧ ∀ b < 7, f.typeMask.getLsbD b = true → t.getLsbD b = f.typeValue.getLsbD b := by
  simp only [Filter.accepts, Bool.and_eq_true, decide_eq_true_eq, PortMatch.accepts_iff, typeTest_iff, and_assoc]

/-- The lowest-numbered filter that accepts the item decides it (R62). -/
theorem State.decidingFilter_some {s : State} {p : Port} {address : Nat} {t : ItemType} {i : Nat} (hi : i < 16)
    (h : (s.filter i).accepts p address t = true) (hlow : ∀ j < i, ¬(s.filter j).accepts p address t = true) :
    s.decidingFilter p address t = some i :=
  List.find?_range_eq_some.mpr ⟨h, List.mem_range.mpr hi, fun j hj => by simpa using hlow j hj⟩

/-- With no filter that accepts the item, none decides it (R62). -/
theorem State.decidingFilter_none {s : State} {p : Port} {address : Nat} {t : ItemType}
    (h : ∀ i < 16, ¬(s.filter i).accepts p address t = true) : s.decidingFilter p address t = none :=
  List.find?_eq_none.mpr fun i hi => h i (List.mem_range.mp hi)

end Sys2Proof.Machine
end

section
/-! PROOF. The statements of the filter list. -/

namespace Sys2Proof.Machine

/-- Settles O17: the index is checked first, then the staging area as `State.stagedFilter_eq` has it. -/
theorem filterSetStoresFilter : Obligations.FilterSetStoresFilter := by
  intro s i o refused stored common
  rw [exec_filterSet_eq, State.stagedFilter_eq]
  simp only [apply_ite s.filterAnswer]
  rfl

/-- Settles O53: the tests as they are stated are those of `Filter.accepts`, and the search finds the first that passes. -/
theorem itemsAreClassified : Obligations.ItemsAreClassified := by
  intro s e seq item n hits discarded
  have hhits : ∀ f, hits f ↔ f.accepts n.port n.address item.itemType = true :=
    fun f => (f.accepts_iff _ _ _).symm
  simp only [hhits]
  refine ⟨fun i hi hit hlow => ?decided, fun hmiss => ?default⟩
  case decided =>
    rw [State.takeItem, State.classifyItem, State.decidingFilter_some hi hit hlow]
    dsimp only
    cases (s.filter i).action <;> rfl
  case default =>
    rw [State.takeItem, State.classifyItem, State.decidingFilter_none hmiss]
    dsimp only
    cases s.defa <;> rfl

end Sys2Proof.Machine
end

section
/-! PROOF. What the statements of the ports take for granted: which entries are enabled, and what counting silence
leaves alone (R82, R115). -/

namespace Sys2Proof.Machine

/-- The enabled entries of a port by the states that R115 calls so. -/
theorem State.enabledEntries_eq (s : State) (p : Port) :
    s.enabledEntries p = (List.range 32).filter fun e =>
      decide ((s.node e).state ≠ .vacant ∧ (s.node e).state ≠ .disabled ∧ (s.node e).port = p) :=
  List.filter_congr fun e _ => by
    rw [Bool.eq_iff_iff, Bool.and_eq_true, NodeState.enabled_iff, not_or, decide_eq_true_iff, decide_eq_true_iff,
      and_assoc]

theorem PortState.enabled_iff (ps : PortState) : ps.enabled = true ↔ ps.link ≠ .disabled := decide_eq_true_iff

/-- What counts silence leaves the pool alone. -/
@[simp] theorem State.silenceUpdate_requests (s : State) (p : Port) : (s.silenceUpdate p).requests = s.requests := by
  unfold State.silenceUpdate
  dsimp only
  split
  · rfl
  · split
    · obtain ⟨u, k, h⟩ := State.setCondition_eq _ (portDown p) true
      rw [h]
      exact s.setPort_requests p _
    · exact s.setPort_requests p _

end Sys2Proof.Machine
end

section
/-! PROOF. What ten bit times of a listening port's receive pin come to, and what a bit of idle does (R70, R76). -/

namespace Sys2Proof.Machine

/-- Nothing waits, and the receive pin of the port is heeded (R76, R192). -/
structure State.Heeds (s : State) (p : Port) : Prop where
  pending : s.pending = []
  held : s.held = false
  listening : (s.port p).listening = true

theorem PortState.listening_iff (ps : PortState) :
    ps.listening = true ↔ ps.link ≠ .disabled ∧ ps.isSending = false := by
  simp [PortState.listening, PortState.enabled]

@[simp] theorem State.setReceiver_setReceiver (s : State) (p : Port) (x y : LineReceiver) :
    (s.setReceiver p x).setReceiver p y = s.setReceiver p y := by cases p <;> rfl

/-- The receiver has no part in whether the pin is heeded. -/
theorem State.Heeds.setReceiver {s : State} {p : Port} (h : s.Heeds p) (r : LineReceiver) :
    (s.setReceiver p r).Heeds p :=
  ⟨by simp [h.pending], by simp [h.held], by rw [State.port_setReceiver]; exact h.listening⟩

/-- A bit time of a pin that is heeded, by where its receiver stands (R70). -/
theorem State.Heeds.lineBit {s : State} {p : Port} (h : s.Heeds p) (high : Bool) :
    s.lineBit p high =
      match (s.port p).receiver.bits with
      | none => if high then s.lineIdle p (s.port p).receiver
        else s.setReceiver p { (s.port p).receiver with bits := some [] }
      | some got =>
        if got.length < 8 then s.setReceiver p { (s.port p).receiver with bits := some (got ++ [high]) }
        else if high then
          (s.setReceiver p .fresh).octetReceived p (decide (Config.idleBits ≤ (s.port p).receiver.idle))
            (octetOfLine got)
        else (s.setReceiver p .fresh).frameEnds p := by
  unfold State.lineBit
  rw [caughtUp_of_empty h.pending]
  exact if_neg (by simp [h.held, h.listening])

/-- Data bits of an octet in progress join it in order. -/
theorem State.Heeds.lineBits_data {s : State} {p : Port} (h : s.Heeds p) {got : List Bool}
    (hgot : (s.port p).receiver.bits = some got) (bits : List Bool) (hlen : got.length + bits.length ≤ 8) :
    s.lineBits p bits = s.setReceiver p { (s.port p).receiver with bits := some (got ++ bits) } := by
  induction bits generalizing s got with
  | nil =>
    rw [List.append_nil, ← hgot]
    cases p <;> rfl
  | cons b bits ih =>
    have hbit : s.lineBit p b = s.setReceiver p { (s.port p).receiver with bits := some (got ++ [b]) } := by
      rw [h.lineBit, hgot]
      exact if_pos (by simp at hlen; omega)
    have hrest := ih (h.setReceiver { (s.port p).receiver with bits := some (got ++ [b]) }) (got := got ++ [b])
      (by rw [State.port_setReceiver]) (by simp at hlen ⊢; omega)
    rw [State.lineBits, List.foldl_cons, hbit]
    refine hrest.trans ?_
    simp

/-- The bit times of a whole octet: its stop bit says whether the octet has been received (R70). -/
theorem State.Heeds.lineBits_octet {s : State} {p : Port} (h : s.Heeds p) (hnone : (s.port p).receiver.bits = none)
    (o : Octet) (stop : Bool) :
    s.lineBits p (false :: ((List.range 8).map fun k => o.getLsbD k) ++ [stop]) =
      if stop then
        (s.setReceiver p .fresh).octetReceived p (decide (Config.idleBits ≤ (s.port p).receiver.idle)) o
      else (s.setReceiver p .fresh).frameEnds p := by
  have hstart : s.lineBit p false = s.setReceiver p { (s.port p).receiver with bits := some [] } := by
    rw [h.lineBit, hnone]
    rfl
  have hdata := (h.setReceiver { (s.port p).receiver with bits := some [] }).lineBits_data
    (by rw [State.port_setReceiver]) ((List.range 8).map fun k => o.getLsbD k) (by simp)
  have hoctet : octetOfLine ((List.range 8).map fun k => o.getLsbD k) = o := octetOfLine_octetLevels o
  have hstop := (h.setReceiver { (s.port p).receiver with
    bits := some ((List.range 8).map fun k => o.getLsbD k) }).lineBit stop
  simp only [State.port_setReceiver, State.setReceiver_setReceiver, hoctet] at hstop
  unfold State.lineBits at hdata ⊢
  rw [List.cons_append, List.foldl_cons, hstart, List.foldl_append, hdata]
  simp only [State.port_setReceiver, State.setReceiver_setReceiver, List.nil_append, List.foldl_cons, List.foldl_nil,
    hstop]
  rfl

/-- The end of a frame in progress is executed as its row (R76). -/
theorem State.Heeds.frameEnds {s : State} {p : Port} (h : s.Heeds p) :
    (.next (s.frameEnds p) : Answer) =
      match (s.port p).deframer with
      | .hunting => .next s
      | .receiving os => exec (.frameReceived p os) s := by
  unfold State.frameEnds
  cases (s.port p).deframer with
  | hunting => rfl
  | receiving os => exact congrArg Host.Outcome.next (takeNow_of_empty _ h.held h.pending rfl)

/-- The port with what it holds of its receive pin and of the frame in progress. -/
def State.receives (s : State) (p : Port) (r : LineReceiver) (d : Deframer) : State :=
  s.setPort p { s.port p with receiver := r, deframer := d }

theorem State.Heeds.receives {s : State} {p : Port} (h : s.Heeds p) (r : LineReceiver) (d : Deframer) :
    (s.receives p r d).Heeds p :=
  ⟨by simp [State.receives, h.pending], by simp [State.receives, h.held],
    by rw [State.receives, State.port_setPort_same]; exact h.listening⟩

@[simp] theorem State.port_receives (s : State) (p : Port) (r : LineReceiver) (d : Deframer) :
    (s.receives p r d).port p = { s.port p with receiver := r, deframer := d } := s.port_setPort_same p _

theorem State.setReceiver_eq_receives {s : State} {p : Port} {d : Deframer} (h : (s.port p).deframer = d)
    (r : LineReceiver) : s.setReceiver p r = s.receives p r d := by
  subst h
  rfl

/-- The octets received end the frame (R76). -/
theorem frameEnded_eq (octets : List Octet) :
    frameEnded octets =
      octets[4]?.any fun len : Octet => decide (96 < len.toNat ∨ len.toNat + 7 ≤ octets.length) := by
  unfold frameEnded
  simp only [Bool.decide_or]

/-- An octet that has been received begins a frame, is discarded, or is an octet of the frame in progress (R76). -/
theorem State.Heeds.octetReceived {s : State} {p : Port} (h : s.Heeds p) (r : LineReceiver) (d : Deframer)
    (afterIdle : Bool) (o : Octet) :
    (.next ((s.receives p r d).octetReceived p afterIdle o) : Answer) =
      match d with
      | .hunting =>
        if afterIdle = true ∧ o = startDelimiterOctet then exec (.startDelimiter p) (s.receives p r .hunting)
        else .next (s.receives p r .hunting)
      | .receiving os =>
        if frameEnded (os ++ [o]) then
          exec (.frameReceived p (os ++ [o])) (s.receives p r (.receiving (os ++ [o])))
        else .next (s.receives p r (.receiving (os ++ [o]))) := by
  unfold State.octetReceived
  rw [State.port_receives]
  cases d with
  | hunting =>
    dsimp only
    split
    · exact congrArg Host.Outcome.next
        (takeNow_of_empty _ (h.receives r .hunting).held (h.receives r .hunting).pending rfl)
    · rfl
  | receiving os =>
    have hlonger : ((s.receives p r (.receiving os)).modPort p fun ps =>
        { ps with deframer := .receiving (os ++ [o]) }) = s.receives p r (.receiving (os ++ [o])) := by
      cases p <;> rfl
    dsimp only
    rw [hlonger]
    split
    · rw [(h.receives r _).frameEnds, State.port_receives]
    · rfl

/-- A bit of idle between octets: with 2 octet times of it, the frame in progress ends (R76). -/
theorem State.Heeds.lineIdle {s : State} {p : Port} (h : s.Heeds p) (r : LineReceiver) :
    (.next (s.lineIdle p r) : Answer) =
      match (s.port p).deframer with
      | .hunting => .next (s.receives p { r with idle := min 20 (r.idle + 1) } .hunting)
      | .receiving os =>
        if 19 ≤ r.idle then
          exec (.frameReceived p os) (s.receives p { r with idle := min 20 (r.idle + 1) } (.receiving os))
        else .next (s.receives p { r with idle := min 20 (r.idle + 1) } (.receiving os)) := by
  have hidle : satInc Config.idleBits r.idle = min 20 (r.idle + 1) := rfl
  have hfull : min 20 (r.idle + 1) = Config.idleBits ↔ 19 ≤ r.idle := by
    show min 20 (r.idle + 1) = 20 ↔ _
    omega
  unfold State.lineIdle
  simp only [hidle, hfull, State.setReceiver_eq_receives rfl, apply_ite Host.Outcome.next, (h.receives _ _).frameEnds,
    State.port_receives]
  cases (s.port p).deframer with
  | hunting => exact ite_self _
  | receiving os => rfl

/-! ### A frame that has ended -/

/-- A frame of class CRC at the counters and the CRC-burst detector, the port's counters written before the report. -/
theorem State.crcError_eq (s : State) (p : Port) :
    s.crcError p =
      let counted : PortState :=
        { s.port p with
          windowCrc := min 255 ((s.port p).windowCrc + 1)
          counters := { (s.port p).counters with crcErrors := min 65535 ((s.port p).counters.crcErrors + 1) } }
      if s.crct.toNat ≤ counted.windowCrc ∧ counted.fired = false then
        ((s.setPort p { counted with fired := true }).setCondition .linkErrors true).raise eventLinkError
      else s.setPort p counted := by
  cases p <;> rfl

/-- A frame of class CRC ends the attempt in the state that the port had before it was counted (R102). -/
theorem State.corruptNotice_crcError (s : State) (p : Port) :
    (s.crcError p).corruptNotice p =
      match (s.port p).sequencer, (s.port p).transaction with
      | .awaiting _, some t => (s.crcError p).failAttempt p t
      | _, _ => s.crcError p := by
  have hport : ((s.crcError p).port p).sequencer = (s.port p).sequencer ∧
      ((s.crcError p).port p).transaction = (s.port p).transaction := by
    rw [State.crcError_eq]
    dsimp only
    split <;> simp
  obtain ⟨hsequencer, htransaction⟩ := hport
  rw [← hsequencer, ← htransaction]
  rfl

end Sys2Proof.Machine
end

section
/-! PROOF. The statements of a port's line, its link state and its window. -/

namespace Sys2Proof.Machine

/-- Settles O30: PORT_ENABLE on a DISABLED port leaves the entries as they are before they fall due. -/
theorem portEnableStartsPort : Obligations.PortEnableStartsPort := by
  intro s p answer enabled started
  have hexec : exec .portEnable s = execPortEnable s := rfl
  have harg : (s.taken 0x50).arg 0 = s.arg 0 := rfl
  have hstarted : ((s.taken 0x50).modPort p PortState.enable).raise eventPort = started := by
    simp only [started]
    cases p <;> rfl
  have hentries : started.enabledEntries p = (List.range 32).filter enabled := by
    rw [State.enabledEntries_eq, ← hstarted]
    simp only [enabled, State.modPort, State.node_raise, State.node_setPort]
    rfl
  rw [hexec, execPortEnable, harg]
  refine congrArg Host.Outcome.next ?_
  rcases portOf_cases (s.arg 0) with ⟨hbad, hp⟩ | ⟨hgood, hp, -⟩
  · rw [hp, if_pos hbad]
    rfl
  · rw [hp, if_neg hgood]
    dsimp only
    rw [State.port_taken]
    refine if_congr (PortState.enabled_iff _) rfl ?_
    rw [State.enablePort, hstarted, hentries]
    rfl

/-- Settles O36: the bits of the line by `State.Heeds.lineBits_octet` and `State.Heeds.lineIdle`, the ended frame by its
class. -/
theorem unusableFramesCounted : Obligations.UnusableFramesCounted := by
  intro s p octets ps listening windowCrc received fresh data
  have hlisten : ps.listening = true ↔ listening := ps.listening_iff
  refine ⟨?delimiter, ?ignored, ?line, ?frame⟩
  case delimiter =>
    exact congrArg Host.Outcome.next (if_congr (and_congr_left' hlisten) rfl rfl)
  case ignored =>
    intro hp hoff high
    refine lineBit_ignored hp ?_ high
    rcases hoff with hoff | hheld
    · exact .inr (Bool.eq_false_iff.mpr (mt hlisten.mp hoff))
    · exact .inl hheld
  case line =>
    intro hp hl hheld hnone
    have h : s.Heeds p := ⟨hp, hheld, hlisten.mpr hl⟩
    refine ⟨fun o => ?octet, fun o => ?error, ?idle⟩
    case octet =>
      rw [h.lineBits_octet hnone o true, if_pos rfl, State.setReceiver_eq_receives (d := ps.deframer) rfl,
        h.octetReceived]
      simp only [decide_eq_true_eq, frameEnded_eq]
      cases ps.deframer <;> rfl
    case error =>
      rw [h.lineBits_octet hnone o false, if_neg (by decide), State.setReceiver_eq_receives (d := ps.deframer) rfl,
        (h.receives _ _).frameEnds, State.port_receives]
      cases ps.deframer <;> rfl
    case idle =>
      rw [h.lineBit, hnone]
      show (.next (s.lineIdle p ps.receiver) : Answer) = _
      rw [h.lineIdle, show s.port p = ps from rfl]
      have hbits : ps.receiver.bits = none := hnone
      simp only [hbits]
      cases ps.deframer <;> rfl
  case frame =>
    have hoff : (ps.listening = true ∧ ps.deframer ≠ .hunting) ↔ ¬(¬listening ∨ ps.deframer = .hunting) := by
      rw [hlisten, not_or, not_not]
    have hport : (s.modPort p fun ps => { ps with deframer := .hunting }).port p = { ps with deframer := .hunting } :=
      s.port_setPort_same p _
    refine congrArg Host.Outcome.next ((if_congr hoff rfl rfl).trans ((ite_not _ _ _).trans (if_congr Iff.rfl rfl ?_)))
    cases classify octets with
    | format => cases p <;> rfl
    | crc =>
      refine (State.corruptNotice_crcError _ p).trans ?_
      rw [hport, State.crcError_eq, hport]
      cases p <;> rfl
    | foreign => cases p <;> rfl
    | valid f => exact congrArg (State.frameHandedOn _ p · f) (congrArg PortState.sequencer hport :)

/-- Settles O37: the state that hears is written before PORT is raised, in the three kinds of link state. -/
theorem hearingTakesPortUp : Obligations.HearingTakesPortUp := by
  intro s p ps heard up
  have hheard : (ps.isSending || ps.isAwaiting || ps.heard) = (ps.heard || ps.isSending || ps.isAwaiting) := by
    cases ps.isSending <;> cases ps.isAwaiting <;> cases ps.heard <;> rfl
  have hps : s.port p = ps := rfl
  unfold State.hear
  simp only [hps, hheard]
  cases hl : ps.link with
  | disabled => simp [heard, hl]
  | up => simp [heard, hl]
  | searching => simp [up, heard]; cases p <;> rfl
  | down => simp [up, heard]; cases p <;> rfl

/-- Settles O41: the silence is counted as R82 says, and the retry decided on the requests, which that leaves alone. -/
theorem attemptFails : Obligations.AttemptFails := by
  intro s p t ps silence counted aborted retry
  have hcounted : s.silenceUpdate p = counted := by
    unfold State.silenceUpdate
    refine if_congr Iff.rfl rfl (if_congr Iff.rfl ?_ rfl)
    cases p <;> rfl
  have hretry : counted.retryAllowed t = true ↔ retry := by
    have habort : counted.abortPending t = aborted := by
      rw [← hcounted, State.abortPending]
      simp only [State.requestOf, State.silenceUpdate_requests]
      rfl
    simp only [State.retryAllowed, habort, Transaction.isPoll, retry, Bool.and_eq_true, Bool.not_eq_true',
      Bool.and_eq_false_iff, decide_eq_true_eq, decide_eq_false_iff_not, not_and, and_assoc, Bool.not_eq_true,
      imp_iff_not_or]
  unfold State.failAttempt
  rw [hcounted]
  exact congrArg (State.enterQuiet · p t.awaited) (if_congr hretry rfl rfl)


/-- Settles O51: a block takes its mark as `State.deliver_of_mem` says, and a RELEASING unit counts at least 1
(R170). -/
theorem windowsAndReleaseCount : Obligations.WindowsAndReleaseCount := by
  intro s
  refine ⟨?window, ?release⟩
  case window =>
    intro p hmark taken ps
    have htake : s.takeMark (.crcWindow p) = taken.markCrcWindow p := State.deliver_of_mem hmark
    have hport : taken.port p = ps := by cases p <;> rfl
    refine congrArg Host.Outcome.next (htake.trans ?_)
    unfold State.markCrcWindow
    simp only [hport, PortState.enabled_iff, ite_not]
    rfl
  case release =>
    intro hok hmark taken
    have htake : s.takeMark .inhibitUnit = taken.markInhibitUnit := State.deliver_of_mem hmark
    refine congrArg Host.Outcome.next (htake.trans ?_)
    unfold State.markInhibitUnit
    rw [show taken.inh = s.inh from rfl]
    cases hstate : s.inh.state with
    | releasing n =>
      have hone : n ≤ 1 ↔ n = 1 := by
        have := hok.countdown n hstate
        omega
      exact if_congr hone rfl rfl
    | clear => rfl
    | asserted => rfl
    | awaitingAck => rfl

end Sys2Proof.Machine
end

section
/-! PROOF. The check of R73, and the class of a frame by what its body holds (R71, R72, R77). -/

namespace Sys2Proof.Machine

/-! ### The check -/

/-- A bit that agrees with the top of the register shifts it, and nothing else (R73). -/
theorem crcBit_msb (reg : Word16) : crcBit reg reg.msb = reg <<< 1 := by simp [crcBit]

theorem crcBit_shiftLeft (reg : Word16) {k : Nat} (hk : k < 16) :
    crcBit (reg <<< k) (reg.getLsbD (15 - k)) = reg <<< (k + 1) := by
  have hmsb : reg.getLsbD (15 - k) = (reg <<< k).msb := by
    rw [BitVec.msb_eq_getLsbD_last, BitVec.getLsbD_shiftLeft]
    simp [show ¬15 < k by omega]
  rw [hmsb, crcBit_msb, BitVec.shiftLeft_add]

theorem getLsbD_highOctet (reg : Word16) {i : Nat} (hi : i < 8) : (highOctet reg).getLsbD i = reg.getLsbD (8 + i) := by
  simp [highOctet, hi]

/-- The first bits of the register's high octet shift themselves out (R73). -/
theorem foldl_crcBit_highOctet (reg : Word16) {k : Nat} (hk : k ≤ 8) :
    ((List.range k).map (7 - ·)).foldl (fun r i => crcBit r ((highOctet reg).getLsbD i)) reg = reg <<< k := by
  induction k with
  | zero => exact (BitVec.shiftLeft_zero reg).symm
  | succ k ih =>
    rw [List.range_succ, List.map_append, List.foldl_append, ih (by omega)]
    simp only [List.map_cons, List.map_nil, List.foldl_cons, List.foldl_nil]
    rw [getLsbD_highOctet reg (by omega), show 8 + (7 - k) = 15 - k by omega]
    exact crcBit_shiftLeft reg (by omega)

theorem crcOctet_highOctet (reg : Word16) : crcOctet reg (highOctet reg) = reg <<< 8 :=
  foldl_crcBit_highOctet reg (Nat.le_refl 8)

theorem lowOctet_eq_highOctet (reg : Word16) : lowOctet reg = highOctet (reg <<< 8) :=
  BitVec.eq_of_getLsbD_eq fun i hi => by
    rw [getLsbD_highOctet _ hi]
    simp [lowOctet, hi]
    omega

/-- Octets followed by their check leave the register at 0 (R73). -/
theorem crc_append_check (os : List Octet) : crc (os ++ [highOctet (crc os), lowOctet (crc os)]) = 0 := by
  have hregister : crc (os ++ [highOctet (crc os), lowOctet (crc os)]) =
      crcOctet (crcOctet (crc os) (highOctet (crc os))) (lowOctet (crc os)) := by
    simp [crc, List.foldl_append]
  rw [hregister, crcOctet_highOctet, lowOctet_eq_highOctet, crcOctet_highOctet, ← BitVec.shiftLeft_add]
  exact BitVec.shiftLeft_eq_zero (by decide)

/-! ### The items of a DATA body -/

/-- An item on the line: its type octet, its length, its payload (R72). -/
def itemOctets (x : Octet × List Octet) : List Octet := x.1 :: octetOf x.2.length :: x.2

theorem toNat_octetOf {n : Nat} (h : n < 256) : (octetOf n).toNat = n := by
  rw [octetOf, BitVec.toNat_ofNat]
  exact Nat.mod_eq_of_lt h

/-- Items one after the other are read back, unless a payload is too long (R77, check 1). -/
theorem walkItems_flatMap (parts : List (Octet × List Octet)) (h : ∀ x ∈ parts, x.2.length < 256) :
    walkItems parts.length (parts.flatMap itemOctets) =
      if ∀ x ∈ parts, x.2.length ≤ 24 then some (parts.map fun x => ⟨x.1.truncate 7, x.2⟩) else none := by
  induction parts with
  | nil => rfl
  | cons x parts ih =>
    have hlen := toNat_octetOf (h x (by simp))
    have hrest := ih fun y hy => h y (by simp [hy])
    simp only [List.length_cons, List.flatMap_cons, itemOctets, List.cons_append, walkItems, hlen, List.length_append,
      Nat.le_add_right, and_true, List.drop_left, List.take_left, hrest, List.forall_mem_cons, ite_and]
    split
    · split <;> rfl
    · rfl

/-- What is read as items is made of items (R77, check 1). -/
theorem walkItems_isSome {n : Nat} {os : List Octet} (h : (walkItems n os).isSome) :
    ∃ parts : List (Octet × List Octet), parts.length = n ∧ (∀ x ∈ parts, x.2.length ≤ 24) ∧
      os = parts.flatMap itemOctets := by
  induction n, os using walkItems.induct with
  | case1 => exact ⟨[], rfl, by simp, rfl⟩
  | case2 o os => simp [walkItems] at h
  | case3 n t len rest hfit ih =>
    obtain ⟨h24, hrest⟩ := hfit
    obtain ⟨parts, hn, hshort, heq⟩ := ih (by simpa [walkItems, h24, hrest] using h)
    have htake : (rest.take len.toNat).length = len.toNat := by simp [hrest]
    refine ⟨(t, rest.take len.toNat) :: parts, by simp [hn], ?_, ?_⟩
    · rw [List.forall_mem_cons]
      exact ⟨by rw [htake]; exact h24, hshort⟩
    · rw [List.flatMap_cons, ← heq, itemOctets, htake]
      simp [octetOf]
  | case4 n t len rest hfit => simp [walkItems, hfit] at h
  | case5 => simp [walkItems] at h

/-! ### The body of a frame -/

/-- The content of an ACK or of a NAK, unless it names the item type 0 (R77, check 4). -/
def typedBody (t : ItemType) (b : RxBody) : Option RxBody := if t ≠ 0 then some b else none

/-- What a body says, by the kind of its frame: `none` where it fails check 1 of R77, and `some none` where it passes
that check, but fails check 3 or what check 4 asks of a body. -/
def readBody (kind : Octet) (body : List Octet) : Option (Option RxBody) :=
  if kindBits kind = kindData then
    match body with
    | [] => none
    | count :: rest =>
      (walkItems count.toNat rest).map fun items =>
        if itemsOk count.toNat items then some (.data items) else none
  else if kindBits kind = kindAck then
    match body with
    | [t] => some (typedBody (t.truncate 7) (.ack (t.truncate 7)))
    | _ => none
  else if kindBits kind = kindNak then
    match body with
    | [t, r] => some ((nakReasonOf r).bind fun reason => typedBody (t.truncate 7) (.nak (t.truncate 7) reason))
    | _ => none
  else some none

theorem readBody_data (count : Octet) (rest : List Octet) :
    readBody kindData (count :: rest) =
      (walkItems count.toNat rest).map fun items =>
        if itemsOk count.toNat items then some (.data items) else none := rfl

theorem readBody_ack (t : Octet) : readBody kindAck [t] = some (typedBody (t.truncate 7) (.ack (t.truncate 7))) := rfl

theorem readBody_nak (t r : Octet) :
    readBody kindNak [t, r] =
      some ((nakReasonOf r).bind fun reason => typedBody (t.truncate 7) (.nak (t.truncate 7) reason)) := rfl

/-- A source address is one that a node can have (R71). -/
def sourceOk (src : Octet) : Bool := decide (1 ≤ addressBits src) && decide (addressBits src ≤ 62)

/-- The class of a frame that is complete and passed check 1, by the checks 2 to 5 of R77. -/
def contentClass (dest src seq : Octet) (passed : Bool) (content : Option RxBody) : RxClass :=
  if !passed then .crc
  else
    match content with
    | none => .format
    | some b =>
      if !sourceOk src then .format else if addressBits dest ≠ 0 then .foreign else .valid ⟨addressBits src, seq, b⟩

/-- The checks of R77 on a complete frame: what the body says first, then the check octets, then the addresses. -/
theorem classifyComplete_eq (dest src kind seq : Octet) (body covered check : List Octet) :
    classifyComplete dest src kind seq body covered check =
      ((readBody kind body).map (contentClass dest src seq (decide (crc (covered ++ check) = 0)))).getD .format := by
  have hclass : ∀ (ok : Bool) (b : RxBody) (passed : Bool),
      (if !passed then .crc
        else if !(ok && (decide (1 ≤ addressBits src) && decide (addressBits src ≤ 62))) then .format
        else if addressBits dest ≠ 0 then .foreign
        else .valid ⟨addressBits src, seq, b⟩ : RxClass) =
        contentClass dest src seq passed (if ok then some b else none) := by
    intro ok b passed
    cases ok <;> rfl
  have hnone : ∀ passed : Bool, (if passed then .format else .crc : RxClass) =
      contentClass dest src seq passed none := fun passed => by cases passed <;> rfl
  have htyped : ∀ (t : ItemType) (b : RxBody), (if decide (t ≠ 0) then some b else none) = typedBody t b :=
    fun t b => if_congr decide_eq_true_iff rfl rfl
  unfold classifyComplete readBody
  simp only [hclass, hnone, htyped]
  generalize decide (crc (covered ++ check) = 0) = passed
  by_cases hdata : kindBits kind = kindData
  · simp only [if_pos hdata]
    cases body with
    | nil => rfl
    | cons count rest =>
      dsimp only
      cases walkItems count.toNat rest <;> rfl
  simp only [if_neg hdata]
  by_cases hack : kindBits kind = kindAck
  · simp only [if_pos hack]
    rcases body with _ | ⟨t, _ | ⟨r, body⟩⟩ <;> rfl
  simp only [if_neg hack]
  by_cases hnak : kindBits kind = kindNak
  · simp only [if_pos hnak]
    rcases body with _ | ⟨t, _ | ⟨r, _ | ⟨x, body⟩⟩⟩
    · rfl
    · rfl
    · dsimp only
      cases nakReasonOf r <;> rfl
    · rfl
  · simp only [if_neg hnak]
    rfl

/-! ### Whole frames -/

/-- Header and body of a frame (R71). -/
def coveredOctets (dest src kind seq : Octet) (body : List Octet) : List Octet :=
  [dest, src, kind, seq, octetOf body.length] ++ body

/-- A frame with a whole header is cut short, or complete and checked (R76, R77). -/
theorem classify_cons (dest src kind seq len : Octet) (rest : List Octet) :
    classify (dest :: src :: kind :: seq :: len :: rest) =
      if len.toNat > 96 ∨ rest.length < len.toNat + 2 then .format
      else
        classifyComplete dest src kind seq (rest.take len.toNat)
          ([dest, src, kind, seq, len] ++ rest.take len.toNat) ((rest.drop len.toNat).take 2) := rfl

/-- The class of a frame whose octets have all been taken. -/
theorem classify_complete (dest src kind seq : Octet) {body check : List Octet} (hbody : body.length ≤ 96)
    (hcheck : check.length = 2) :
    classify (coveredOctets dest src kind seq body ++ check) =
      ((readBody kind body).map (contentClass dest src seq
        (decide (crc (coveredOctets dest src kind seq body ++ check) = 0)))).getD .format := by
  have hlen : (octetOf body.length).toNat = body.length := toNat_octetOf (by omega)
  have hwhole : ¬((octetOf body.length).toNat > 96 ∨ (body ++ check).length < (octetOf body.length).toNat + 2) := by
    rw [hlen, List.length_append]
    omega
  have htake : (body ++ check).take (octetOf body.length).toNat = body := by rw [hlen, List.take_left]
  have hdrop : ((body ++ check).drop (octetOf body.length).toNat).take 2 = check := by
    rw [hlen, List.drop_left, List.take_of_length_le hcheck.le]
  have hclass : classify (coveredOctets dest src kind seq body ++ check) =
      classifyComplete dest src kind seq body (coveredOctets dest src kind seq body) check := by
    show classify (dest :: src :: kind :: seq :: octetOf body.length :: (body ++ check)) = _
    rw [classify_cons, if_neg hwhole, htake, hdrop]
    rfl
  rw [hclass, classifyComplete_eq]

/-- A frame after its start delimiter, with its own check, high octet first (R71, R73, R199). -/
def checkedFrame (dest src kind seq : Octet) (body : List Octet) : List Octet :=
  let os := coveredOctets dest src kind seq body
  os ++ [highOctet (crc os), lowOctet (crc os)]

theorem classify_checkedFrame (dest src kind seq : Octet) {body : List Octet} (hbody : body.length ≤ 96) :
    classify (checkedFrame dest src kind seq body) =
      ((readBody kind body).map (contentClass dest src seq true)).getD .format := by
  rw [checkedFrame, classify_complete dest src kind seq hbody rfl, crc_append_check]
  rfl

/-- A frame that ends before it is complete, or names a body length above 96, is FORMAT (R76, R77). -/
theorem classify_cut (dest src kind seq len : Octet) {rest : List Octet}
    (h : 96 < len.toNat ∨ rest.length < len.toNat + 2) :
    classify (dest :: src :: kind :: seq :: len :: rest) = .format := if_pos h

theorem classify_short {octets : List Octet} (h : octets.length < 5) : classify octets = .format := by
  rcases octets with _ | ⟨a, _ | ⟨b, _ | ⟨c, _ | ⟨d, _ | ⟨e, rest⟩⟩⟩⟩⟩
  iterate 5 rfl
  exact absurd h (by simp)

/-! ### Which bodies pass check 1 -/

/-- What check 1 of R77 asks of a body: items that fill it exactly, or the length that its kind has. -/
def BodyFits (kind : Octet) (body : List Octet) : Prop :=
  (kindBits kind = kindData →
    ∃ parts : List (Octet × List Octet), (∀ x ∈ parts, x.2.length ≤ 24) ∧
      body = octetOf parts.length :: parts.flatMap itemOctets) ∧
  (kindBits kind = kindAck → body.length = 1) ∧ (kindBits kind = kindNak → body.length = 2)

theorem length_le_flatMap_itemOctets (parts : List (Octet × List Octet)) :
    parts.length ≤ (parts.flatMap itemOctets).length := by
  induction parts with
  | nil => exact Nat.le_refl 0
  | cons x parts ih =>
    simp only [List.flatMap_cons, List.length_append, List.length_cons, itemOctets]
    omega

theorem readBody_isSome_iff (kind : Octet) {body : List Octet} (hbody : body.length ≤ 96) :
    (readBody kind body).isSome ↔ BodyFits kind body := by
  have hack : kindAck ≠ kindData := by decide
  have hnak : kindNak ≠ kindData ∧ kindNak ≠ kindAck := by decide
  unfold readBody BodyFits
  by_cases h : kindBits kind = kindData
  · simp only [h, if_true, hack.symm, hnak.1.symm, false_implies, and_true, true_implies]
    constructor
    · intro hsome
      cases body with
      | nil => simp at hsome
      | cons count rest =>
        obtain ⟨parts, hlen, hshort, hrest⟩ := walkItems_isSome (n := count.toNat) (os := rest) (by simpa using hsome)
        exact ⟨parts, hshort, by rw [hlen, hrest, octetOf, BitVec.ofNat_toNat, BitVec.setWidth_eq]⟩
    · rintro ⟨parts, hshort, rfl⟩
      have hcount := length_le_flatMap_itemOctets parts
      have hparts := toNat_octetOf (n := parts.length) (by rw [List.length_cons] at hbody; omega)
      have hwalk := walkItems_flatMap parts fun x hx => by have := hshort x hx; omega
      rw [if_pos hshort] at hwalk
      simp [hparts, hwalk]
  · by_cases h' : kindBits kind = kindAck
    · simp only [h', if_true, hack, if_false, hnak.2.symm, false_implies, and_true, true_implies, true_and]
      rcases body with _ | ⟨t, _ | ⟨r, body⟩⟩ <;> simp
    · by_cases h'' : kindBits kind = kindNak
      · simp only [h'', if_true, hnak, if_false, false_implies, true_implies, true_and]
        rcases body with _ | ⟨t, _ | ⟨r, _ | ⟨x, body⟩⟩⟩ <;> simp
      · simp [h, h', h'']

/-! ### The bodies that a node builds -/

/-- The body of a DATA frame with the items (R72). -/
def dataBody (items : List Item) : List Octet :=
  octetOf items.length ::
    items.flatMap fun i => i.itemType.setWidth 8 :: octetOf i.payload.length :: i.payload

theorem truncate_setWidth (t : ItemType) : (t.setWidth 8 : Octet).truncate 7 = t := by
  revert t
  decide

/-- What is read from the body of a DATA frame: its items, where no payload is too long and check 4 passes. -/
theorem readBody_dataBody {items : List Item} (hbody : (dataBody items).length ≤ 96) :
    readBody kindData (dataBody items) =
      if ∀ i ∈ items, i.payload.length ≤ 24 then some (if itemsOk items.length items then some (.data items) else none)
      else none := by
  let parts : List (Octet × List Octet) := items.map fun i => (i.itemType.setWidth 8, i.payload)
  have hlen : parts.length = items.length := List.length_map _
  have hoctets : (items.flatMap fun i => i.itemType.setWidth 8 :: octetOf i.payload.length :: i.payload) =
      parts.flatMap itemOctets := by simp [parts, List.flatMap_map, itemOctets]
  have hitems : (parts.map fun x => (⟨x.1.truncate 7, x.2⟩ : Item)) = items := by
    simp only [parts, List.map_map, Function.comp_def, truncate_setWidth, List.map_id']
  have hbound : (parts.flatMap itemOctets).length ≤ 95 := by
    simp only [dataBody, hoctets, List.length_cons] at hbody
    omega
  have hcount := toNat_octetOf (n := items.length) (by
    have := length_le_flatMap_itemOctets parts
    omega)
  have hwalk := walkItems_flatMap parts fun x hx => by
    have hle : (itemOctets x).length ≤ (parts.flatMap itemOctets).length := by
      rw [List.length_flatMap]
      exact List.le_sum_of_mem (List.mem_map_of_mem hx)
    simp only [itemOctets, List.length_cons] at hle
    omega
  have hshort : (∀ x ∈ parts, x.2.length ≤ 24) ↔ ∀ i ∈ items, i.payload.length ≤ 24 := List.forall_mem_map
  rw [hitems, hlen, if_congr hshort rfl rfl] at hwalk
  have hread : readBody kindData (dataBody items) =
      (walkItems (octetOf items.length).toNat (parts.flatMap itemOctets)).map fun items' =>
        if itemsOk (octetOf items.length).toNat items' then some (.data items') else none := by
    rw [dataBody, hoctets]
    rfl
  rw [hread, hcount, hwalk, apply_ite (Option.map _)]
  rfl

theorem itemsOk_iff (items : List Item) :
    itemsOk items.length items = true ↔
      1 ≤ items.length ∧ items.length ≤ 4 ∧ (∀ i ∈ items, i.itemType ≠ 0) ∧
        (items.map fun i => i.itemType).Nodup := by
  simp [itemsOk, and_assoc]

/-- An item count outside 1 to 4 fails check 4 (R77). -/
theorem itemsOk_count {count : Nat} {items : List Item} (h : itemsOk count items = true) : 1 ≤ count ∧ count ≤ 4 := by
  simp only [itemsOk, Bool.and_eq_true, decide_eq_true_eq] at h
  exact h.1.1

theorem truncate_eq_zero {t : Octet} (h : t &&& 0x7F = 0) : (t.truncate 7 : ItemType) = 0 := by
  revert t
  decide

/-- The reasons of a NAK have the codes 1 to 3 (R199). -/
theorem nakReasonOf_some {r : Octet} (h1 : 1 ≤ r.toNat) (h3 : r.toNat ≤ 3) : ∃ reason, nakReasonOf r = some reason := by
  have hall : ∀ r : Octet, 1 ≤ r.toNat → r.toNat ≤ 3 → (nakReasonOf r).isSome := by decide
  exact Option.isSome_iff_exists.mp (hall r h1 h3)

theorem nakReasonOf_none {r : Octet} (h : r.toNat = 0 ∨ 3 < r.toNat) : nakReasonOf r = none := by
  revert r
  decide

/-! ### Addresses, and the classes that they decide -/

theorem addressBits_of_le {o : Octet} (h : o.toNat ≤ 63) : addressBits o = o.toNat := by
  revert o
  decide

/-- A frame with its own check whose body can be read, from a node's address: valid for the part, else FOREIGN. -/
theorem classify_nodeFrame {kind : Octet} {body : List Octet} {b : RxBody} (hread : readBody kind body = some (some b))
    (hbody : body.length ≤ 96) {src : Octet} (hlow : 1 ≤ src.toNat) (hhigh : src.toNat ≤ 62) (seq : Octet) :
    classify (checkedFrame 0 src kind seq body) = .valid ⟨src.toNat, seq, b⟩ ∧
    ∀ dest : Octet, 1 ≤ dest.toNat → dest.toNat ≤ 63 → classify (checkedFrame dest src kind seq body) = .foreign := by
  have hbits : addressBits src = src.toNat := addressBits_of_le (by omega)
  have hsrc : sourceOk src = true := by simp [sourceOk, hbits, hlow, hhigh]
  have hclass : ∀ dest : Octet, classify (checkedFrame dest src kind seq body) =
      if addressBits dest ≠ 0 then .foreign else .valid ⟨src.toNat, seq, b⟩ := fun dest => by
    rw [classify_checkedFrame dest src kind seq hbody, hread]
    simp [contentClass, hsrc, hbits]
  refine ⟨by rw [hclass]; rfl, fun dest h1 h63 => ?_⟩
  rw [hclass, addressBits_of_le h63, if_pos (by omega)]

/-- A frame with its own check is FORMAT where nothing that can be taken is read from it (R77, checks 1, 3 and 4). -/
theorem classify_format {kind : Octet} {body : List Octet} (hbody : body.length ≤ 96) {src : Octet}
    (h : ∀ b, readBody kind body = some (some b) → sourceOk src = false) (dest seq : Octet) :
    classify (checkedFrame dest src kind seq body) = .format := by
  rw [classify_checkedFrame dest src kind seq hbody]
  match hread : readBody kind body with
  | none => rfl
  | some none => rfl
  | some (some b) => simp [contentClass, h b hread]

/-- Neither 0 nor 63 is the address of a node (R71). -/
theorem sourceOk_eq_false {src : Octet} (h : src &&& 0x3F = 0 ∨ src &&& 0x3F = 63) : sourceOk src = false := by
  revert src
  decide

/-- A kind that is not listened to gives nothing to read (R77, check 3). -/
theorem readBody_unheard {kind : Octet}
    (h : ¬(kindBits kind = kindData ∨ kindBits kind = kindAck ∨ kindBits kind = kindNak)) (body : List Octet) :
    readBody kind body = some none := by
  simp only [not_or] at h
  obtain ⟨hdata, hack, hnak⟩ := h
  unfold readBody
  rw [if_neg hdata, if_neg hack, if_neg hnak]

end Sys2Proof.Machine
end

section
/-! PROOF. The statement of the frames. -/

namespace Sys2Proof.Machine

/-- Settles O56: a frame is classified by its check and by what `readBody` makes of its body. -/
theorem frameOctetsRoundTrip : Obligations.FrameOctetsRoundTrip := by
  unfold Obligations.FrameOctetsRoundTrip
  intro covered frame carried listens fits
  have hfits : ∀ kind body, fits kind body ↔ BodyFits kind body := fun _ _ => Iff.rfl
  refine ⟨by decide +kernel, crc_append_check, fun source seq hlow hhigh => ⟨?data, ?answers⟩, fun _ => classify_short,
    fun dest source seq => ⟨fun kind len rest => classify_cut dest source kind seq len, ?check, ?unheard, ?count, ?items,
      ?type, ?reason⟩⟩
  case data =>
    intro items h1 h4 hitem hnodup hbody
    have hread : readBody kindData (dataBody items) = some (some (.data items)) := by
      rw [readBody_dataBody hbody, if_pos fun i hi => (hitem i hi).2,
        if_pos ((itemsOk_iff items).mpr ⟨h1, h4, fun i hi => (hitem i hi).1, hnodup⟩)]
    exact classify_nodeFrame hread hbody hlow hhigh seq
  case answers =>
    intro t ht
    have htyped : ∀ b, typedBody ((t.setWidth 8 : Octet).truncate 7) b = some b := fun b => by
      rw [truncate_setWidth]
      exact if_pos ht
    have hack : readBody kindAck [t.setWidth 8] = some (some (.ack t)) :=
      (congrArg some (htyped _)).trans (by rw [truncate_setWidth])
    have hnak : ∀ {r : Octet} {reason : NakReason}, nakReasonOf r = some reason →
        readBody kindNak [t.setWidth 8, r] = some (some (.nak t reason)) := fun {r reason} hr => by
      show some ((nakReasonOf r).bind _) = _
      rw [hr, Option.bind_some, htyped, truncate_setWidth]
    have hackFrame := classify_nodeFrame hack (by simp) hlow hhigh seq
    have hnakFrame := fun {r reason} (hr : nakReasonOf r = some reason) =>
      classify_nodeFrame (hnak hr) (by simp) hlow hhigh seq
    refine ⟨hackFrame.1, (hnakFrame rfl).1, (hnakFrame rfl).1, (hnakFrame rfl).1, fun dest h1 h63 =>
      ⟨hackFrame.2 dest h1 h63, fun reason hr1 hr3 => ?_⟩⟩
    obtain ⟨reason', hreason⟩ := nakReasonOf_some hr1 hr3
    exact (hnakFrame hreason).2 dest h1 h63
  case check =>
    intro kind body check hbody hcheck got
    have hgot : got = _ := classify_complete dest source kind seq hbody hcheck
    rw [hfits, ← readBody_isSome_iff kind hbody, hgot]
    refine ⟨fun hmis => ?_, fun hfit hcrc => ?_⟩
    · rw [Option.not_isSome_iff_eq_none.mp hmis]
      rfl
    · obtain ⟨content, hread⟩ := Option.isSome_iff_exists.mp hfit
      rw [hread, decide_eq_false (p := crc (coveredOctets dest source kind seq body ++ check) = 0) hcrc]
      rfl
  case unheard =>
    intro kind body hbody h
    refine classify_format hbody (fun b hread => ?_) dest seq
    rcases h with hkind | hsource
    · rw [readBody_unheard hkind] at hread
      cases hread
    · exact sourceOk_eq_false hsource
  case count =>
    intro count rest hrest hcount
    refine classify_format (kind := kindData) (body := count :: rest) (Nat.succ_le_succ hrest) (fun b hread => ?_)
      dest seq
    rw [readBody_data] at hread
    obtain ⟨items, -, hitems⟩ := Option.map_eq_some_iff.mp hread
    rw [if_neg fun hok => absurd (itemsOk_count hok) (by omega)] at hitems
    cases hitems
  case items =>
    intro items hbody hbad
    refine classify_format (kind := kindData) (body := dataBody items) hbody (fun b hread => ?_) dest seq
    have hwrong : ¬itemsOk items.length items = true := fun hok => by
      obtain ⟨-, -, hnonzero, hnodup⟩ := (itemsOk_iff items).mp hok
      rcases hbad with ⟨i, hi, hzero⟩ | hrepeats
      · exact hnonzero i hi hzero
      · exact hrepeats hnodup
    rw [readBody_dataBody hbody, if_neg hwrong] at hread
    split at hread <;> cases hread
  case type =>
    intro t reason ht
    have hnone : ∀ b, typedBody (t.truncate 7) b = none := fun b => if_neg (not_not.mpr (truncate_eq_zero ht))
    refine ⟨classify_format (kind := kindAck) (by simp) (fun b hread => ?_) dest seq,
      classify_format (kind := kindNak) (by simp) (fun b hread => ?_) dest seq⟩
    · rw [readBody_ack, hnone] at hread
      cases hread
    · rw [readBody_nak] at hread
      simp only [hnone] at hread
      simp at hread
  case reason =>
    intro t reason hr
    refine classify_format (kind := kindNak) (by simp) (fun b hread => ?_) dest seq
    rw [readBody_nak, nakReasonOf_none hr] at hread
    cases hread

end Sys2Proof.Machine
end

section
/-! PROOF. CMD is what a command leaves for the host to read: nothing that ports, arbiters, node table and conditions do
depends on it (R190). -/

namespace Sys2Proof.Machine

variable (s : State) (c : Octet)

/-- What does not depend on CMD can be done one after the other without depending on it. -/
theorem foldl_taken {α : Type} {f : State → α → State} (hf : ∀ s a, f (s.taken c) a = (f s a).taken c) (l : List α)
    (s : State) : l.foldl f (s.taken c) = (l.foldl f s).taken c := by
  induction l generalizing s with
  | nil => rfl
  | cons a l ih => rw [List.foldl_cons, hf, ih, List.foldl_cons]

/-- A choice between what does not depend on CMD, by what does not depend on it either. -/
theorem ite_taken {c : Octet} {a b : Prop} [Decidable a] [Decidable b] (hab : a ↔ b) {t u x y : State}
    (hx : t = x.taken c) (hy : u = y.taken c) : (if a then t else u) = (if b then x else y).taken c := by
  rw [hx, hy, ← apply_ite (State.taken · c)]
  exact congrArg (State.taken · c) (if_congr hab rfl rfl)

/-! ### Ports, nodes, records and conditions -/

theorem State.setPort_taken (p : Port) (x : PortState) : (s.taken c).setPort p x = (s.setPort p x).taken c := by
  cases p <;> rfl

theorem State.modPort_taken (p : Port) (f : PortState → PortState) :
    (s.taken c).modPort p f = (s.modPort p f).taken c := by cases p <;> rfl

theorem State.inhSettle_taken (n : Octet) : (s.taken c).inhSettle n = (s.inhSettle n).taken c := by
  have hassert : ∀ d, (s.taken c).inhAssert d = (s.inhAssert d).taken c := fun d => by
    rw [State.inhAssert_eq, State.inhAssert_eq]
    rfl
  have hrelease : (s.taken c).releaseDecision = s.releaseDecision.taken c := by
    unfold State.releaseDecision
    rw [State.taken_inh]
    cases s.inh.mode with
    | manual => rfl
    | auto => exact ite_taken Iff.rfl rfl rfl
  exact ite_taken Iff.rfl (hassert _) (ite_taken Iff.rfl hrelease rfl)

theorem State.setCondition_taken (d : Condition) (on : Bool) :
    (s.taken c).setCondition d on = (s.setCondition d on).taken c :=
  ite_taken Iff.rfl rfl (ite_taken Iff.rfl
    (State.inhSettle_taken { s with inh := { s.inh with active := s.inh.active ||| d.bit } } c _)
    (State.inhSettle_taken { s with inh := { s.inh with active := s.inh.active &&& ~~~d.bit } } c _))

theorem State.notify_taken (r : Nat) (d : BitVec 5) : (s.taken c).notify r d = (s.notify r d).taken c := by
  have hrec : (s.taken c).record r = s.record r := rfl
  unfold State.notify State.join
  simp only [hrec]
  split
  · rfl
  · exact ite_taken Iff.rfl rfl (ite_taken Iff.rfl rfl rfl)

theorem State.orphanRecord_taken (r : Nat) : (s.taken c).orphanRecord r = (s.orphanRecord r).taken c := by
  have hrec : (s.taken c).record r = s.record r := rfl
  unfold State.orphanRecord
  rw [hrec]
  split
  · rfl
  · split
    · rfl
    · exact (s.setRecord r _).notify_taken c r causeOrphan

theorem State.nodeNotice_taken (e : Nat) : (s.taken c).nodeNotice e = (s.nodeNotice e).taken c := by
  have hfold := foldl_taken c (fun s r => s.orphanRecord_taken c r) (s.ownedRecords e) s
  have howned : (s.taken c).ownedRecords e = s.ownedRecords e := rfl
  unfold State.nodeNotice
  rw [howned, hfold]
  exact State.setCondition_taken _ c _ _

theorem State.nodeMiss_taken (e : Nat) : (s.taken c).nodeMiss e = (s.nodeMiss e).taken c := by
  have hchanged : ∀ n, ((s.taken c).setNode e n).nodeChanged e = ((s.setNode e n).nodeChanged e).taken c := fun _ => rfl
  unfold State.nodeMiss
  rw [show (s.taken c).node e = s.node e from rfl]
  dsimp only
  simp only [hchanged, State.nodeNotice_taken]
  split
  · rfl
  · split
    · split
      · exact State.setCondition_taken _ c _ _
      · rfl
    · rfl

theorem State.pollFailed_taken (e : Nat) (b : Bool) : (s.taken c).pollFailed e b = (s.pollFailed e b).taken c := by
  unfold State.pollFailed
  split
  · rfl
  · exact s.nodeMiss_taken c e

theorem State.reportFailed_taken (p : Port) (t : Transaction) :
    (s.taken c).reportFailed p t = (s.reportFailed p t).taken c := by
  have hdrop : (s.taken c).dropTransaction p = (s.dropTransaction p).taken c := s.modPort_taken c p _
  have hreq : ∀ (u : State) tag, (u.taken c).requestOf tag = u.requestOf tag := fun _ _ => rfl
  unfold State.reportFailed
  simp only [hdrop, hreq]
  split
  · split
    · split
      · rfl
      · exact State.pollFailed_taken _ c _ _
    · rfl
  · split <;> rfl

/-! ### Arbiters -/

theorem State.requestCandidate_taken (p : Port) (l : List Request) :
    (s.taken c).requestCandidate p l = ((s.requestCandidate p l).1.taken c, (s.requestCandidate p l).2) := by
  induction l generalizing s with
  | nil => rfl
  | cons q l ih =>
    have hinh : (s.taken c).inhAsserted = s.inhAsserted := rfl
    have htarget : (s.taken c).targetReachable p q.address = s.targetReachable p q.address := rfl
    unfold State.requestCandidate
    rw [hinh, htarget]
    split
    · rfl
    · split
      · rfl
      · exact ih (s.complete q .nodeAbsent)

theorem State.startAttempt_taken (p : Port) (t : Transaction) :
    (s.taken c).startAttempt p t = (s.startAttempt p t).taken c := by
  cases hw : t.work with
  | poll =>
    simp only [State.startAttempt, State.attemptFrame, hw]
    cases p <;> rfl
  | request tag itemType =>
    have hreq : (s.taken c).requestOf tag = s.requestOf tag := rfl
    simp only [State.startAttempt, State.attemptFrame, hw, hreq, State.port_taken]
    cases p <;> rfl

theorem State.grantPoll_taken (p : Port) (e : Nat) : (s.taken c).grantPoll p e = (s.grantPoll p e).taken c := by
  unfold State.grantPoll
  rw [← State.startAttempt_taken]
  cases p <;> rfl

theorem State.grantRequest_taken (p : Port) (q : Request) :
    (s.taken c).grantRequest p q = (s.grantRequest p q).taken c := by
  unfold State.grantRequest
  rw [← State.startAttempt_taken]
  cases p <;> rfl

theorem State.grantFirst_taken (p : Port) : (s.taken c).grantFirst p = (s.grantFirst p).taken c := by
  have hwaiting : (s.taken c).waitingOf p = s.waitingOf p := rfl
  unfold State.grantFirst
  simp only [hwaiting, State.requestCandidate_taken, State.port_taken, State.grantPoll_taken, State.grantRequest_taken]
  split
  · split <;> rfl
  all_goals rfl

theorem State.evaluate_taken (p : Port) : (s.taken c).evaluate p = (s.evaluate p).taken c := by
  have hdropped : ∀ t, (s.taken c).retryDropped p t = s.retryDropped p t := fun t => by cases p <;> rfl
  unfold State.evaluate
  simp only [State.port_taken, hdropped, State.reportFailed_taken, State.grantFirst_taken, State.startAttempt_taken]
  split
  · split
    · rfl
    · split
      · split <;> rfl
      · rfl
  · rfl

theorem State.evaluatePorts_taken (ps : List Port) : (s.taken c).evaluatePorts ps = (s.evaluatePorts ps).taken c := by
  have hnext : { s.taken c with choices := (s.taken c).choices + 1 } =
      { s with choices := s.choices + 1 }.taken c := rfl
  unfold State.evaluatePorts
  split
  · simp only [hnext, State.evaluate_taken]
    exact ite_taken Iff.rfl rfl rfl
  · exact foldl_taken c (fun s p => s.evaluate_taken c p) ps s

theorem State.report_taken (d : Condition) (on : Bool) : (s.taken c).report d on = (s.report d on).taken c := by
  have hgated : ∀ t : State, (t.taken c).evaluateGated = t.evaluateGated.taken c := fun t => by
    unfold State.evaluateGated
    simp only [State.port_taken]
    exact t.evaluatePorts_taken c _
  have hinh : ∀ t : State, (t.taken c).inhAsserted = t.inhAsserted := fun _ => rfl
  unfold State.report afterInhibit
  simp only [State.setCondition_taken, hgated, hinh]
  split <;> rfl

theorem State.fallDue_taken (e : Nat) : (s.taken c).fallDue e = (s.fallDue e).taken c := by
  have hnode : (s.taken c).node e = s.node e := rfl
  unfold State.fallDue
  simp only [hnode, State.port_taken]
  split
  · rfl
  · rw [← State.evaluate_taken, ← State.modPort_taken]
    rfl

/-! ### A port that stops -/

theorem State.endCycle_taken (t : Option Transaction) : (s.taken c).endCycle t = (s.endCycle t).taken c := by
  unfold State.endCycle
  split
  · split
    · split <;> rfl
    · rfl
  · rfl

theorem State.flushRequests_taken (p : Port) : (s.taken c).flushRequests p = (s.flushRequests p).taken c :=
  foldl_taken c (fun _ _ => rfl) _ s

theorem State.probeEntry_taken (e : Nat) : (s.taken c).probeEntry e = (s.probeEntry e).taken c := by
  unfold State.probeEntry
  rw [← State.nodeNotice_taken]
  refine congrArg (State.nodeNotice · e) ?_
  exact ite_taken Iff.rfl rfl rfl

theorem State.stopPort_taken (p : Port) (link : LinkState) :
    (s.taken c).stopPort p link = (s.stopPort p link).taken c := by
  have hentries : ∀ t : State, (t.taken c).enabledEntries p = t.enabledEntries p := fun _ => rfl
  have hraise : ∀ t : State, (t.taken c).raise eventPort = (t.raise eventPort).taken c := fun _ => rfl
  have hlost : ∀ t : State, (t.taken c).reportNodeLost = t.reportNodeLost.taken c := fun t => t.report_taken c _ _
  have hite : ∀ {b : Prop} [Decidable b] (t u : State),
      (if b then t.taken c else u.taken c) = (if b then t else u).taken c :=
    fun {b} _ t u => (apply_ite (State.taken · c) b t u).symm
  unfold State.stopPort
  simp only [State.port_taken, State.taken_qgap, State.setPort_taken, hraise, hite, State.report_taken,
    State.endCycle_taken, State.flushRequests_taken, hentries,
    foldl_taken c fun s e => State.probeEntry_taken s c e, hlost]

theorem State.resetPort_taken (p : Port) : (s.taken c).resetPort p = (s.resetPort p).taken c := by
  have hentries : ∀ t : State, (t.taken c).enabledEntries p = t.enabledEntries p := fun _ => rfl
  unfold State.resetPort
  simp only [State.stopPort_taken, State.modPort_taken, hentries, foldl_taken c fun s e => State.fallDue_taken s c e]

end Sys2Proof.Machine
end


section
/-! PROOF. What the reports of a stopping port can start at the arbiters: grants on the other port, and nothing on its
own (R96, R142, R177; entry 7). -/

namespace Sys2Proof.Machine

/-- What every evaluation keeps, and what taking a free value keeps, is kept by what a fall of INH starts. -/
theorem afterInhibit_keeps {P : State → Prop} (hchoice : ∀ t n, P t → P { t with choices := n })
    (hevaluate : ∀ t q, P t → P (t.evaluate q)) (s : State) {t : State} (h : P t) : P (afterInhibit s t) := by
  have hports : ∀ ps, P (t.evaluatePorts ps) := fun ps => by
    unfold State.evaluatePorts
    split
    · dsimp only
      split <;> exact hevaluate _ _ (hevaluate _ _ (hchoice _ _ h))
    · exact foldl_keeps hevaluate ps h
  exact ite_keeps (hports _) h

/-- Two states that differ at most in the ports, in which entries are being polled, in the pool, the inhibit unit, the
events and the index of free values. -/
structure SameTables (s t : State) : Prop where
  rest : t = { s with
    portA := t.portA, portB := t.portB, nodes := t.nodes, requests := t.requests, completions := t.completions
    inh := t.inh, sticky := t.sticky, choices := t.choices }
  node : ∀ e, t.node e = { s.node e with polled := (t.node e).polled }

namespace SameTables

theorem refl (s : State) : SameTables s s := ⟨rfl, fun _ => rfl⟩

theorem trans {s t u : State} (h : SameTables s t) (k : SameTables t u) : SameTables s u where
  rest := by rw [k.rest, h.rest]
  node e := by rw [k.node, h.node]

/-- What changes the ports, the pool, the inhibit unit, the events and the index of free values alone. -/
theorem of_rest {s t : State} (h : t = { s with
    portA := t.portA, portB := t.portB, requests := t.requests, completions := t.completions
    inh := t.inh, sticky := t.sticky, choices := t.choices }) : SameTables s t where
  rest := by rw [h]
  node e := by rw [h]; rfl

theorem setPort (s : State) (p : Port) (x : PortState) : SameTables s (s.setPort p x) :=
  of_rest (by cases p <;> rfl)

theorem modPort (s : State) (p : Port) (f : PortState → PortState) : SameTables s (s.modPort p f) := setPort s p _

/-- An entry begins or ends being polled. -/
theorem modNode_polled (s : State) (e : Nat) (b : Bool) :
    SameTables s (s.modNode e fun n => { n with polled := b }) where
  rest := rfl
  node e' := by
    unfold State.modNode
    rw [State.node_setNode]
    by_cases h : e' = e
    · subst h
      by_cases h32 : e' < 32
      · simp [h32]
      · simp [h32, s.node_of_le (by omega : 32 ≤ e')]
    · simp [h]

theorem setCondition (s : State) (c : Condition) (on : Bool) : SameTables s (s.setCondition c on) := by
  obtain ⟨u, k, h⟩ := s.setCondition_eq c on
  rw [h]
  exact of_rest rfl

theorem raise (s : State) (e : BitVec 9) : SameTables s (s.raise e) := of_rest rfl

theorem completeAll (s : State) (l : List Request) (st : Status) :
    SameTables s (l.foldl (fun s q => s.complete q st) s) := by
  rw [foldl_complete]
  exact of_rest rfl

/-! ### Grants -/

theorem startAttempt (s : State) (p : Port) (t : Transaction) : SameTables s (s.startAttempt p t) := by
  unfold State.startAttempt
  dsimp only
  split
  · exact modPort _ _ _
  · exact (of_rest rfl : SameTables s (s.modRequest _ _)).trans (modPort _ _ _)

theorem grantPoll (s : State) (p : Port) (e : Nat) : SameTables s (s.grantPoll p e) := by
  unfold State.grantPoll
  exact ((modNode_polled s e true).trans (modPort _ _ _)).trans (startAttempt _ _ _)

theorem grantRequest (s : State) (p : Port) (q : Request) : SameTables s (s.grantRequest p q) := by
  unfold State.grantRequest
  exact (modPort _ _ _).trans (startAttempt _ _ _)

theorem grantFirst (s : State) (p : Port) : SameTables s (s.grantFirst p) := by
  have hcandidate : SameTables s (s.requestCandidate p (s.waitingOf p)).1 := by
    obtain ⟨k, h⟩ := Calm.requestCandidate_eq p (s.waitingOf p) s
    rw [h]
    exact completeAll _ _ _
  unfold State.grantFirst
  dsimp only
  split
  · split
    · exact hcandidate.trans (grantRequest _ _ _)
    · exact hcandidate.trans (grantPoll _ _ _)
  · exact hcandidate.trans (grantPoll _ _ _)
  · exact hcandidate.trans (grantRequest _ _ _)
  · exact hcandidate

/-- An evaluation from IDLE finds no transaction (R94), so that it grants first attempts alone. -/
theorem evaluate {s : State} (h : PortsOk s) (p : Port) : SameTables s (s.evaluate p) := by
  unfold State.evaluate
  split
  · rename_i he
    have hidle : (s.port p).sequencer = .idle := by
      simp only [Bool.and_eq_true, PortState.isIdle, decide_eq_true_eq] at he
      exact he.2
    rw [(h p).idle_free hidle]
    exact grantFirst s p
  · exact refl s

theorem report {s : State} (h : PortsOk s) (c : Condition) (on : Bool) : SameTables s (s.report c on) := by
  have hok : PortsOk (s.setCondition c on) := fun p => (s.port_setCondition c on p).symm ▸ h p
  refine And.left (afterInhibit_keeps (P := fun t => SameTables s t ∧ PortsOk t) (fun t n ht => ?_) (fun t q ht => ?_)
    s ⟨setCondition s c on, hok⟩)
  · exact ⟨ht.1.trans (of_rest rfl), portsOk_choices n ht.2⟩
  · exact ⟨ht.1.trans (evaluate ht.2 q), portsOk_evaluate q ht.2⟩

end SameTables

/-! ### The ports -/

/-- An evaluation changes nothing at the other port. -/
theorem State.port_evaluate_ne (s : State) {p q : Port} (h : p ≠ q) : (s.evaluate q).port p = s.port p := by
  have hstart : ∀ (u : State) t, (u.startAttempt q t).port p = u.port p := fun u t => by
    obtain ⟨x, hx, -⟩ := u.port_startAttempt q p t
    rw [hx, if_neg h]
  have hfirst : ∀ u : State, (u.grantFirst q).port p = u.port p := fun u => by
    unfold State.grantFirst State.grantPoll State.grantRequest
    dsimp only
    split
    · split <;> simp [hstart, State.modPort, State.port_setPort, h]
    all_goals simp [hstart, State.modPort, State.port_setPort, h]
  unfold State.evaluate
  split
  · split
    · exact hfirst s
    · split
      · split
        · rw [hfirst, State.port_reportFailed, if_neg h]
        · exact hstart s _
      · rfl
  · rfl

/-- No arbiter changes a port that is not IDLE. -/
theorem State.port_evaluate_of_busy {s : State} {p : Port} (h : (s.port p).isIdle = false) (q : Port) :
    (s.evaluate q).port p = s.port p := by
  by_cases hq : p = q
  · subst hq
    rw [State.evaluate, h, Bool.and_false, if_neg (by decide)]
  · exact s.port_evaluate_ne hq

theorem State.port_report_of_busy {s : State} {p : Port} (h : (s.port p).isIdle = false) (c : Condition) (on : Bool) :
    (s.report c on).port p = s.port p := by
  refine afterInhibit_keeps (P := fun t => t.port p = s.port p) (fun t n ht => ?_) (fun t q ht => ?_) s
    (s.port_setCondition c on p)
  · rw [← ht]
    cases p <;> rfl
  · rw [← ht, State.port_evaluate_of_busy (ht ▸ h)]

/-- With no gated request of an IDLE port in front, a report starts no arbiter (R96, R142). -/
theorem State.report_of_noneGated {s : State} (h : s.noneGated) (c : Condition) (on : Bool) :
    s.report c on = s.setCondition c on := by
  have hnone : (s.setCondition c on).evaluateGated = s.setCondition c on := by
    have hfilter : ([Port.A, Port.B].filter fun p => ((s.setCondition c on).port p).enabled &&
        ((s.setCondition c on).port p).isIdle && ((s.setCondition c on).oldestWaiting p).any Request.gated) = [] := by
      obtain ⟨u, k, hset⟩ := s.setCondition_eq c on
      refine List.filter_eq_nil_iff.mpr fun p _ => ?_
      rw [State.port_setCondition, show (s.setCondition c on).oldestWaiting p = s.oldestWaiting p by rw [hset]; rfl]
      simp only [Bool.and_eq_true, not_and, Bool.not_eq_true, and_imp]
      exact h p
    unfold State.evaluateGated
    rw [hfilter]
    rfl
  unfold State.report afterInhibit
  rw [hnone, ite_self]

end Sys2Proof.Machine
end


section
/-! PROOF. Records that become ORPHAN one after the other, with their notices (R16, R31, R32). -/

namespace Sys2Proof.Machine

/-! ### The change queue under notices of one cause -/

/-- An entry of the change queue once the records of `l` have sent their notices (R32). -/
def noticedEntry (tells queued : Nat → Bool) (c : BitVec 5) (l : List Nat) (x : ChangeEntry) : ChangeEntry :=
  if l.contains x.record && (tells x.record && queued x.record) then { x with causes := x.causes ||| c } else x

/-- The change queue once the records of `l`, in its order, have sent their notices of one cause: those that tell and
have an entry merge into it, and those that tell and have none join at the tail (R31, R32). -/
def noticedQueue (tells queued : Nat → Bool) (c : BitVec 5) (l : List Nat) (q : List ChangeEntry) : List ChangeEntry :=
  q.map (noticedEntry tells queued c l) ++ (l.filter fun r => tells r && !queued r).map fun r => ⟨r, c⟩

/-- One more record sends its notice. -/
theorem noticedQueue_append (tells queued : Nat → Bool) (c : BitVec 5) {l : List Nat} {r : Nat} (hr : r ∉ l)
    (q : List ChangeEntry) :
    noticedQueue tells queued c (l ++ [r]) q =
      if tells r then
        if queued r then mergeCauses r c (noticedQueue tells queued c l q)
        else noticedQueue tells queued c l q ++ [⟨r, c⟩]
      else noticedQueue tells queued c l q := by
  have hname : ∀ x, (noticedEntry tells queued c l x).record = x.record := fun x => by
    unfold noticedEntry
    split <;> rfl
  have hentry : ∀ x, noticedEntry tells queued c (l ++ [r]) x =
      if x.record = r ∧ (tells r && queued r) = true then
        { noticedEntry tells queued c l x with causes := (noticedEntry tells queued c l x).causes ||| c }
      else noticedEntry tells queued c l x := fun x => by
    by_cases hx : x.record = r <;> simp [noticedEntry, hx, hr]
  have hmerge : q.map (noticedEntry tells queued c (l ++ [r])) =
      if tells r && queued r then mergeCauses r c (q.map (noticedEntry tells queued c l))
      else q.map (noticedEntry tells queued c l) := by
    rw [funext hentry]
    cases tells r && queued r <;> simp [mergeCauses, hname]
  have hnone : mergeCauses r c ((l.filter fun r => tells r && !queued r).map fun r => ⟨r, c⟩) =
      (l.filter fun r => tells r && !queued r).map fun r => ⟨r, c⟩ := by
    refine mergeCauses_of_notMem (fun h => hr ?_) c
    simp only [List.map_map, Function.comp_def, List.map_id'] at h
    exact (List.mem_filter.mp h).1
  simp only [noticedQueue, hmerge, List.filter_append, List.filter_singleton, List.map_append, mergeCauses_append,
    hnone]
  cases tells r <;> cases queued r <;> simp

/-! ### One record -/

/-- A record under a node notice: ORPHAN, and in the change queue where it tells (R16). -/
def Record.orphaned (rec : Record) : Record :=
  if rec.state = .orphan then rec
  else { rec with state := .orphan, queued := rec.queued || rec.tells causeOrphan }

/-- Record `r` sends the notice ORPHAN under a node notice. -/
def State.tellsOrphan (s : State) (r : Nat) : Bool :=
  (s.record r).any fun rec => decide (rec.state ≠ .orphan) && rec.tells causeOrphan

/-- A record that is written as it is. -/
theorem State.setIfInBounds_record (s : State) (r : Nat) : s.records.setIfInBounds r (s.record r) = s.records :=
  State.records_ext (s := s.setRecord r (s.record r)) fun r' hr' => by
    rw [State.record_setRecord]
    split
    · subst r'
      rw [if_pos hr']
    · rfl

theorem State.orphanRecord_eq (s : State) (r : Nat) :
    s.orphanRecord r =
      { s with
        records := s.records.setIfInBounds r ((s.record r).map Record.orphaned)
        queue :=
          if s.tellsOrphan r then
            if s.isQueued r then mergeCauses r causeOrphan s.queue else s.queue ++ [⟨r, causeOrphan⟩]
          else s.queue } := by
  have hsame := s.setIfInBounds_record r
  unfold State.orphanRecord State.tellsOrphan State.isQueued
  cases hrec : s.record r with
  | none =>
    rw [hrec] at hsame
    simp [hsame]
  | some rec =>
    by_cases horphan : rec.state = .orphan
    · rw [hrec] at hsame
      simp [horphan, Record.orphaned, hsame]
    · have hnotice := s.setRecord_notify (s.record_some_lt hrec) { rec with state := .orphan } causeOrphan
      simp only [horphan, if_false, Record.orphaned, Option.map_some, Option.any_some, ne_eq, not_false_eq_true,
        decide_true, Bool.true_and]
      exact hnotice

/-! ### Several records -/

/-- The table and the change queue once the records of `l`, in its order, have become ORPHAN. -/
def State.orphanTable (s : State) (l : List Nat) : State :=
  { s with
    records := s.records.mapIdx fun r o => if l.contains r then o.map Record.orphaned else o
    queue := noticedQueue s.tellsOrphan s.isQueued causeOrphan l s.queue }

theorem State.record_orphanTable (s : State) (l : List Nat) (r : Nat) :
    (s.orphanTable l).record r = if l.contains r then (s.record r).map Record.orphaned else s.record r := by
  by_cases hr : r < 48
  · simp [State.record_eq_getElem _ hr, State.orphanTable]
  · simp [State.record_of_le _ (by omega : 48 ≤ r)]

theorem State.orphanTable_nil (s : State) : s.orphanTable [] = s := by
  have hentry : noticedEntry s.tellsOrphan s.isQueued causeOrphan [] = id := funext fun x => by simp [noticedEntry]
  simp [State.orphanTable, noticedQueue, hentry, mapIdx_snd]

/-- One more record becomes ORPHAN. -/
theorem State.orphanRecord_orphanTable {s : State} {l : List Nat} {r : Nat} (hr : r ∉ l) :
    (s.orphanTable l).orphanRecord r = s.orphanTable (l ++ [r]) := by
  have hrec : (s.orphanTable l).record r = s.record r := by
    rw [State.record_orphanTable, if_neg (by simpa using hr)]
  have htells : (s.orphanTable l).tellsOrphan r = s.tellsOrphan r := by rw [State.tellsOrphan, hrec]; rfl
  have hqueued : (s.orphanTable l).isQueued r = s.isQueued r := by rw [State.isQueued, hrec]; rfl
  have hrecords : ((s.orphanTable l).setRecord r ((s.record r).map Record.orphaned)).records =
      (s.orphanTable (l ++ [r])).records := State.records_ext fun r' hr' => by
    rw [State.record_setRecord, State.record_orphanTable, State.record_orphanTable]
    by_cases e : r' = r
    · subst r'
      simp [hr']
    · simp [e]
  have hqueue : (if s.tellsOrphan r then
        if s.isQueued r then mergeCauses r causeOrphan (s.orphanTable l).queue
        else (s.orphanTable l).queue ++ [⟨r, causeOrphan⟩]
      else (s.orphanTable l).queue) = (s.orphanTable (l ++ [r])).queue := (noticedQueue_append _ _ _ hr _).symm
  rw [State.orphanRecord_eq, hrec, htells, hqueued, hqueue]
  show { (s.orphanTable l) with
    records := ((s.orphanTable l).setRecord r ((s.record r).map Record.orphaned)).records
    queue := (s.orphanTable (l ++ [r])).queue } = _
  rw [hrecords]
  rfl

/-- Records that become ORPHAN one after the other. -/
theorem foldl_orphanRecord {l : List Nat} (hl : l.Nodup) (s : State) :
    l.foldl State.orphanRecord s = s.orphanTable l := by
  induction l using List.reverseRecOn with
  | nil => exact s.orphanTable_nil.symm
  | append_singleton l r ih =>
    obtain ⟨hl, -, hr⟩ := List.nodup_append'.mp hl
    rw [List.foldl_append, ih hl, List.foldl_cons, List.foldl_nil, State.orphanRecord_orphanTable (by simpa using hr)]

end Sys2Proof.Machine
end


section
/-! PROOF. The entries of a stopping port become PROBING one after the other, with their node notices (R16, R125,
R126). -/

namespace Sys2Proof.Machine

/-! ### The inhibit unit -/

/-- The sticky events but INHIBIT. -/
def State.otherEvents (s : State) : BitVec 9 := s.sticky &&& ~~~eventInhibit

theorem or_eventInhibit_and_not (k : BitVec 9) : (k ||| eventInhibit) &&& ~~~eventInhibit = k &&& ~~~eventInhibit := by
  revert k
  decide

theorem or_eventNode_and_not (k : BitVec 9) :
    (k ||| eventNode) &&& ~~~eventInhibit = (k &&& ~~~eventInhibit) ||| eventNode := by
  revert k
  decide

/-- An event raised for one reason and for another. -/
theorem or_ite_or_ite (k a : BitVec 9) (b c : Prop) [Decidable b] [Decidable c] :
    ((k ||| if b then a else 0) ||| if c then a else 0) = k ||| if b ∨ c then a else 0 := by
  by_cases hb : b <;> by_cases hc : c <;> simp [hb, hc, BitVec.or_assoc]

/-- What no report to the inhibit unit changes: the settings of the unit, and every event but INHIBIT. -/
structure SameSettings (s t : State) : Prop where
  mask : t.inh.mask = s.inh.mask
  mode : t.inh.mode = s.inh.mode
  delay : t.inh.delay = s.inh.delay
  otherEvents : t.otherEvents = s.otherEvents

namespace SameSettings

theorem refl (s : State) : SameSettings s s := ⟨rfl, rfl, rfl, rfl⟩

theorem trans {s t u : State} (h : SameSettings s t) (k : SameSettings t u) : SameSettings s u :=
  ⟨k.mask.trans h.mask, k.mode.trans h.mode, k.delay.trans h.delay, k.otherEvents.trans h.otherEvents⟩

end SameSettings

/-- The unit with other conditions, state or first cause. -/
theorem State.sameSettings_inhBecomes (s : State) {u : InhibitUnit} (hmask : u.mask = s.inh.mask)
    (hmode : u.mode = s.inh.mode) (hdelay : u.delay = s.inh.delay) : SameSettings s (s.inhBecomes u) := by
  refine ⟨hmask, hmode, hdelay, ?_⟩
  unfold State.otherEvents State.inhBecomes
  dsimp only
  split
  · rfl
  · exact or_eventInhibit_and_not s.sticky

theorem State.inhSettle_keeps (s : State) (n : Octet) :
    SameSettings s (s.inhSettle n) ∧ (s.inhSettle n).inh.active = s.inh.active := by
  unfold State.inhSettle
  split
  · rw [State.inhAssert_eq]
    exact ⟨s.sameSettings_inhBecomes rfl rfl rfl, rfl⟩
  · split
    · rename_i h
      rw [State.releaseDecision_eq h.1]
      exact ⟨s.sameSettings_inhBecomes rfl rfl rfl, rfl⟩
    · exact ⟨SameSettings.refl s, rfl⟩

theorem State.sameSettings_setCondition (s : State) (c : Condition) (on : Bool) :
    SameSettings s (s.setCondition c on) := by
  have hset : ∀ active n, SameSettings s (({ s with inh := { s.inh with active := active } } : State).inhSettle n) :=
    fun active n => SameSettings.trans (t := { s with inh := { s.inh with active := active } }) ⟨rfl, rfl, rfl, rfl⟩
      (State.inhSettle_keeps _ n).1
  exact ite_keeps (SameSettings.refl s) (ite_keeps (hset _ _) (hset _ _))

/-- A report gives its condition the level reported, and no other (R165). -/
theorem State.isActive_setCondition_eq (s : State) (c c' : Condition) (on : Bool) :
    (s.setCondition c on).inh.isActive c' = if c' = c then on else s.inh.isActive c' := by
  have hlt : ∀ d : Condition, d.number < 8 := fun d => by cases d <;> decide
  have hinj : c'.number = c.number ↔ c' = c := by cases c' <;> cases c <;> decide
  have hsettled : ∀ active n, (({ s with inh := { s.inh with active := active } } : State).inhSettle n).inh.active =
      active := fun _ n => (State.inhSettle_keeps _ n).2
  have hactive : (s.setCondition c on).inh.active =
      if on then s.inh.active ||| c.bit else s.inh.active &&& ~~~c.bit := by
    unfold State.setCondition
    by_cases h : s.inh.isActive c = on
    · rw [if_pos h, InhibitUnit.active_same h]
    · rw [if_neg h]
      cases on with
      | false => exact hsettled (s.inh.active &&& ~~~c.bit) 0
      | true => exact hsettled (s.inh.active ||| c.bit) (c.bit &&& s.inh.mask)
  unfold InhibitUnit.isActive
  rw [hactive]
  cases on with
  | false =>
    rw [if_neg (by decide)]
    simp only [BitVec.getLsbD_and, BitVec.getLsbD_not, hlt, decide_true, Bool.true_and, c.getLsbD_bit (hlt c'), hinj]
    by_cases h : c' = c <;> simp [h]
  | true =>
    rw [if_pos rfl]
    simp only [BitVec.getLsbD_or, c.getLsbD_bit (hlt c'), hinj]
    by_cases h : c' = c <;> simp [h]

/-! ### Node notices -/

/-- A node notice writes the table and the change queue, and reports the level of DATA_STALE that this leaves (R16). -/
theorem State.nodeNotice_eq (s : State) (e : Nat) :
    s.nodeNotice e =
      (s.orphanTable (s.ownedRecords e)).setCondition .dataStale (s.orphanTable (s.ownedRecords e)).dataStaleLevel := by
  have hnodup : (s.ownedRecords e).Nodup := List.nodup_range.filter _
  rw [State.nodeNotice, foldl_orphanRecord hnodup]

/-- An entry of a port that stops (R125, R126). -/
def NodeEntry.probed (n : NodeEntry) : NodeEntry :=
  { n with
    state := .probing, missCount := 0, lastSequence := none, countdown := 0
    notice := n.notice || decide (n.state ≠ .probing) }

/-- The table of nodes and the events once an entry has become PROBING, before its node notice. -/
def State.unnoticed (s : State) (e : Nat) : State :=
  { s.setNode e (s.node e).probed with
    sticky := if (s.node e).state = .probing then s.sticky else s.sticky ||| eventNode }

/-- The state once the records of an entry that became PROBING are ORPHAN; DATA_STALE is still to be reported. -/
def State.unreported (s : State) (e : Nat) : State :=
  (s.unnoticed e).orphanTable ((s.unnoticed e).ownedRecords e)

theorem State.probeEntry_eq (s : State) {e : Nat} (he : e < 32) :
    s.probeEntry e = (s.unreported e).setCondition .dataStale (s.unreported e).dataStaleLevel := by
  rw [State.unreported, ← State.nodeNotice_eq]
  refine congrArg (State.nodeNotice · e) ?_
  unfold State.unnoticed
  by_cases h : (s.node e).state = .probing
  · rw [if_pos h, if_pos h]
    simp [NodeEntry.probed, h]
    rfl
  · rw [if_neg h, if_neg h]
    unfold State.nodeChanged State.modNode
    rw [State.node_setNode_same _ _ he]
    simp [NodeEntry.probed, h, State.setNode, State.raise]

theorem State.inh_unreported (s : State) (e : Nat) : (s.unreported e).inh = s.inh := rfl

theorem State.node_unreported (s : State) (e e' : Nat) :
    (s.unreported e).node e' = (s.setNode e (s.node e).probed).node e' := rfl

/-- NODE is raised where the entry was not yet PROBING (R125, R126). -/
theorem State.otherEvents_unreported (s : State) (e : Nat) :
    (s.unreported e).otherEvents = s.otherEvents ||| if (s.node e).state ≠ .probing then eventNode else 0 := by
  by_cases h : (s.node e).state = .probing
  · rw [if_neg (by simpa using h)]
    exact (congrArg (· &&& ~~~eventInhibit) (if_pos h)).trans (by simp [State.otherEvents])
  · rw [if_pos h]
    exact (congrArg (· &&& ~~~eventInhibit) (if_neg h)).trans (or_eventNode_and_not s.sticky)

/-! ### The records of several entries -/

/-- Two states with the same capture table and the same change queue. -/
structure RecordsAgree (s t : State) : Prop where
  records : t.records = s.records
  queue : t.queue = s.queue

namespace RecordsAgree

theorem trans {s t u : State} (h : RecordsAgree s t) (k : RecordsAgree t u) : RecordsAgree s u :=
  ⟨k.records.trans h.records, k.queue.trans h.queue⟩

theorem orphanTable {s t : State} (h : RecordsAgree s t) (l : List Nat) :
    RecordsAgree (s.orphanTable l) (t.orphanTable l) := by
  have hrec : ∀ r, t.record r = s.record r := State.record_congr h.records
  have htells : t.tellsOrphan = s.tellsOrphan := funext fun r => by rw [State.tellsOrphan, hrec]; rfl
  have hqueued : t.isQueued = s.isQueued := funext fun r => by rw [State.isQueued, hrec]; rfl
  refine ⟨?_, ?_⟩
  · simp only [State.orphanTable, h.records]
  · simp only [State.orphanTable, h.queue, htells, hqueued]

theorem ownedRecords {s t : State} (h : RecordsAgree s t) (e : Nat) : t.ownedRecords e = s.ownedRecords e :=
  List.filter_congr fun r _ => by rw [State.record_congr h.records]

theorem setCondition (s : State) (c : Condition) (on : Bool) : RecordsAgree s (s.setCondition c on) := by
  obtain ⟨u, k, h⟩ := s.setCondition_eq c on
  rw [h]
  exact ⟨rfl, rfl⟩

end RecordsAgree

/-- A node notice leaves the entry of every record. -/
theorem State.ownedRecords_orphanTable (s : State) (l : List Nat) (e : Nat) :
    (s.orphanTable l).ownedRecords e = s.ownedRecords e := by
  have horphaned : ∀ rec : Record, rec.orphaned.entry = rec.entry := fun rec => by
    unfold Record.orphaned
    split <;> rfl
  refine List.filter_congr fun r _ => ?_
  rw [State.record_orphanTable]
  split
  · simp [Option.any_map, horphaned]
  · rfl

theorem State.orphanTable_orphanTable {s : State} {l m : List Nat} (h : (l ++ m).Nodup) :
    (s.orphanTable l).orphanTable m = s.orphanTable (l ++ m) := by
  obtain ⟨hl, hm, -⟩ := List.nodup_append'.mp h
  rw [← foldl_orphanRecord h, List.foldl_append, foldl_orphanRecord hl, foldl_orphanRecord hm]

theorem State.mem_ownedRecords (s : State) (r e : Nat) :
    r ∈ s.ownedRecords e ↔ ∃ rec, s.record r = some rec ∧ rec.entry = e := by
  simp only [State.ownedRecords, List.mem_filter, Option.any_eq_true, decide_eq_true_eq]
  exact ⟨fun h => h.2, fun ⟨rec, hrec, he⟩ => ⟨List.mem_range.mpr (s.record_some_lt hrec), rec, hrec, he⟩⟩

/-- A record belongs to one entry, so that the records of several entries are named once. -/
theorem State.nodup_flatMap_ownedRecords (s : State) {l : List Nat} (h : l.Nodup) :
    (l.flatMap s.ownedRecords).Nodup := by
  refine List.nodup_flatMap.mpr ⟨fun e _ => List.nodup_range.filter _, h.imp fun hne r hr hr' => hne ?_⟩
  obtain ⟨rec, hrec, rfl⟩ := (s.mem_ownedRecords r _).mp hr
  obtain ⟨rec', hrec', rfl⟩ := (s.mem_ownedRecords r _).mp hr'
  rw [hrec] at hrec'
  cases hrec'
  rfl

/-! ### Several entries -/

/-- Two states that differ at most in the capture table, the change queue, the nodes, the inhibit unit and the
events. -/
def ProbesOnly (s t : State) : Prop :=
  t = { s with records := t.records, queue := t.queue, nodes := t.nodes, inh := t.inh, sticky := t.sticky }

theorem ProbesOnly.trans {s t u : State} (h : ProbesOnly s t) (k : ProbesOnly t u) : ProbesOnly s u := by
  unfold ProbesOnly at *
  rw [k, h]

theorem State.probesOnly_unreported (s : State) (e : Nat) : ProbesOnly s (s.unreported e) := rfl

theorem State.probesOnly_setCondition (s : State) (c : Condition) (on : Bool) : ProbesOnly s (s.setCondition c on) := by
  obtain ⟨u, k, h⟩ := s.setCondition_eq c on
  rw [h]
  rfl

/-- What the entries of `l` that become PROBING, in its order, make of the state. -/
structure Probed (s : State) (l : List Nat) (t : State) : Prop where
  rest : ProbesOnly s t
  table : RecordsAgree (s.orphanTable (l.flatMap s.ownedRecords)) t
  node : ∀ e, t.node e = if e ∈ l then (s.node e).probed else s.node e
  active : ∀ c, t.inh.isActive c = if c = .dataStale ∧ l ≠ [] then t.dataStaleLevel else s.inh.isActive c
  mask : t.inh.mask = s.inh.mask
  mode : t.inh.mode = s.inh.mode
  delay : t.inh.delay = s.inh.delay
  otherEvents : t.otherEvents = s.otherEvents ||| if ∃ e ∈ l, (s.node e).state ≠ .probing then eventNode else 0

theorem Probed.nil (s : State) : Probed s [] s where
  rest := rfl
  table := by rw [List.flatMap_nil, State.orphanTable_nil]; exact ⟨rfl, rfl⟩
  node e := by simp
  active c := by simp
  mask := rfl
  mode := rfl
  delay := rfl
  otherEvents := by simp

/-- One more entry becomes PROBING. -/
theorem Probed.probeEntry {s t : State} {l : List Nat} {e : Nat} (h : Probed s l t) (hl : (l ++ [e]).Nodup)
    (he : e < 32) : Probed s (l ++ [e]) (t.probeEntry e) := by
  obtain ⟨-, -, hnew⟩ := List.nodup_append'.mp hl
  have hnode : t.node e = s.node e := by rw [h.node, if_neg (by simpa using hnew)]
  obtain ⟨w, k, hset⟩ := (t.unreported e).setCondition_eq .dataStale (t.unreported e).dataStaleLevel
  have hsettings := (t.unreported e).sameSettings_setCondition .dataStale (t.unreported e).dataStaleLevel
  have hprobe := t.probeEntry_eq he
  have hlevel : (t.probeEntry e).dataStaleLevel = (t.unreported e).dataStaleLevel := by rw [hprobe, hset]; rfl
  rw [← hprobe] at hset hsettings
  refine ⟨?rest, ?table, fun e' => ?node, fun c => ?active, hsettings.mask.trans h.mask, hsettings.mode.trans h.mode,
    hsettings.delay.trans h.delay, ?otherEvents⟩
  case rest =>
    rw [hprobe]
    exact (h.rest.trans (t.probesOnly_unreported e)).trans (State.probesOnly_setCondition _ _ _)
  case table =>
    have hsame : RecordsAgree t (t.unnoticed e) := ⟨rfl, rfl⟩
    have hreported : RecordsAgree (t.unreported e) (t.probeEntry e) := by
      rw [hprobe]
      exact RecordsAgree.setCondition _ _ _
    have howned : (t.unnoticed e).ownedRecords e = s.ownedRecords e := by
      rw [(h.table.trans hsame).ownedRecords, State.ownedRecords_orphanTable]
    have hnodup := s.nodup_flatMap_ownedRecords hl
    rw [List.flatMap_append, List.flatMap_cons, List.flatMap_nil, List.append_nil] at hnodup ⊢
    rw [← State.orphanTable_orphanTable hnodup, ← howned]
    exact ((h.table.trans hsame).orphanTable _).trans hreported
  case node =>
    have hwritten : (t.probeEntry e).node e' = (t.setNode e (s.node e).probed).node e' := by
      rw [hset, ← hnode]
      exact t.node_unreported e e'
    rw [hwritten, State.node_setNode, h.node]
    by_cases heq : e' = e
    · subst e'
      simp [he]
    · simp [heq]
  case active =>
    rw [hlevel, hprobe, State.isActive_setCondition_eq, State.inh_unreported, h.active]
    by_cases hc : c = .dataStale <;> simp [hc]
  case otherEvents =>
    have hall : (∃ e' ∈ l ++ [e], (s.node e').state ≠ .probing) ↔
        (∃ e' ∈ l, (s.node e').state ≠ .probing) ∨ (s.node e).state ≠ .probing := by
      simp [or_and_right, exists_or]
    rw [hsettings.otherEvents, State.otherEvents_unreported, hnode, h.otherEvents, if_congr hall rfl rfl,
      or_ite_or_ite]

/-- The entries of `l` become PROBING one after the other. -/
theorem probed_foldl {l : List Nat} (hl : l.Nodup) (h32 : ∀ e ∈ l, e < 32) (s : State) :
    Probed s l (l.foldl State.probeEntry s) := by
  induction l using List.reverseRecOn with
  | nil => exact Probed.nil s
  | append_singleton l e ih =>
    obtain ⟨hl', -, -⟩ := List.nodup_append'.mp hl
    rw [List.foldl_append]
    exact (ih hl' fun e' he' => h32 e' (by simp [he'])).probeEntry hl (h32 e (by simp))

end Sys2Proof.Machine
end


section
/-! PROOF. A port that stops: what it leaves before its entries are probed, and after (R85, R86, R111, R125, R154). -/

namespace Sys2Proof.Machine

/-! ### The stages of a stop -/

/-- The port has left what it was doing, before anything is reported (entry 7). -/
def State.portLeft (s : State) (p : Port) (link : LinkState) : State :=
  let t := s.setPort p ((s.port p).stop link s.qgap)
  if (s.port p).link = link then t else t.raise eventPort

/-- The transaction and the requests of the stopped port have been abandoned; its entries are as they were (R111,
R154). -/
def State.abandoned (s : State) (p : Port) (link : LinkState) : State :=
  let t := if (s.port p).link = .down then (s.portLeft p link).report (portDown p) false else s.portLeft p link
  (t.endCycle (s.port p).transaction).flushRequests p

/-- The entries of the stopped port have become PROBING, and NODE_LOST is still to be reported (R125). -/
def State.probed (s : State) (p : Port) (link : LinkState) : State :=
  ((s.abandoned p link).enabledEntries p).foldl State.probeEntry (s.abandoned p link)

theorem State.stopPort_eq (s : State) (p : Port) (link : LinkState) :
    s.stopPort p link = (s.probed p link).reportNodeLost := rfl

/-- The node entry of a poll cycle in flight, unless the cycle is detached (R109, R124). -/
def polledEntry : Option Transaction → Option Nat
  | some t => if t.work = .poll ∧ t.entryLost = false then t.entry else none
  | none => none

/-- The end of a poll cycle marks its entry as no longer being polled. -/
theorem State.endCycle_eq (s : State) (t : Option Transaction) :
    s.endCycle t = (polledEntry t).elim s fun e => s.modNode e fun n => { n with polled := false } := by
  unfold State.endCycle polledEntry
  cases t with
  | none => rfl
  | some t => cases hw : t.work <;> cases he : t.entry <;> cases hl : t.entryLost <;> simp [hw, he, hl]

/-- The requests of the port end with FLUSHED, the one in flight first (R154). -/
theorem State.flushRequests_eq (s : State) (p : Port) :
    s.flushRequests p =
      let flushed := (s.requests.filter fun q => q.port = p && q.state = .inFlight) ++ s.waitingOf p
      { s with
        requests := s.requests.filter fun x => decide (x.tag ∉ flushed.map Request.tag)
        completions := s.completions ++ flushed.map fun q => ⟨q.tag, .flushed, q.attempts, s.epoch16⟩ } :=
  foldl_complete .flushed _ s

/-! ### In every case -/

theorem PortState.stop_ok (ps : PortState) (link : LinkState) (qgap : Octet) : (ps.stop link qgap).Ok where
  idle_free _ := rfl
  rest_retries _ _ t h := by cases h
  busy_inFlight h := by rcases h with h | h <;> cases h
  disabled_free _ := rfl

theorem State.port_portLeft (s : State) (p q : Port) (link : LinkState) :
    (s.portLeft p link).port q = if q = p then (s.port p).stop link s.qgap else s.port q := by
  unfold State.portLeft
  dsimp only
  split
  · exact s.port_setPort p q _
  · rw [State.port_raise]
    exact s.port_setPort p q _

/-- The stopped port is in QUIET, so that no arbiter acts on it while the stop is reported (entry 7). -/
theorem State.portLeft_busy (s : State) (p : Port) (link : LinkState) :
    ((s.portLeft p link).port p).isIdle = false := by
  rw [State.port_portLeft, if_pos rfl]
  rfl

/-- What ends the poll cycle and the requests leaves the ports and the tables. -/
theorem State.endCycle_flushRequests (s : State) (t : Option Transaction) (p : Port) :
    SameTables s ((s.endCycle t).flushRequests p) ∧ ∀ q, ((s.endCycle t).flushRequests p).port q = s.port q := by
  have hcycle : SameTables s (s.endCycle t) ∧ ∀ q, (s.endCycle t).port q = s.port q := by
    rw [State.endCycle_eq]
    cases polledEntry t with
    | none => exact ⟨SameTables.refl s, fun _ => rfl⟩
    | some e => exact ⟨SameTables.modNode_polled s e false, fun q => by simp⟩
  refine ⟨hcycle.1.trans (SameTables.completeAll _ _ _), fun q => ?_⟩
  rw [State.flushRequests_eq, ← hcycle.2 q]
  cases q <;> rfl

theorem State.abandoned_tables {s : State} (h : PortsOk s) (p : Port) (link : LinkState) :
    SameTables s (s.abandoned p link) ∧ PortsOk (s.abandoned p link) ∧
      (s.abandoned p link).port p = (s.port p).stop link s.qgap := by
  have hleft : SameTables s (s.portLeft p link) := by
    have hport := SameTables.setPort s p ((s.port p).stop link s.qgap)
    exact ite_keeps hport (hport.trans (SameTables.raise _ _))
  have hleftOk : PortsOk (s.portLeft p link) := fun q => by
    rw [State.port_portLeft]
    split
    · exact PortState.stop_ok _ _ _
    · exact h q
  have hleftPort : (s.portLeft p link).port p = (s.port p).stop link s.qgap := by rw [State.port_portLeft, if_pos rfl]
  have hreported : ∀ t : State, t = (if (s.port p).link = .down then (s.portLeft p link).report (portDown p) false
      else s.portLeft p link) → SameTables s t ∧ PortsOk t ∧ t.port p = (s.port p).stop link s.qgap := by
    rintro t rfl
    split
    · exact ⟨hleft.trans (SameTables.report hleftOk _ _), portsOk_report _ _ hleftOk,
        (State.port_report_of_busy (s.portLeft_busy p link) _ _).trans hleftPort⟩
    · exact ⟨hleft, hleftOk, hleftPort⟩
  obtain ⟨htables, hok, hport⟩ := hreported _ rfl
  obtain ⟨hends, hports⟩ := State.endCycle_flushRequests _ (s.port p).transaction p
  exact ⟨htables.trans hends, fun q => (hports q).symm ▸ hok q, (hports p).trans hport⟩

theorem SameTables.enabledEntries {s t : State} (h : SameTables s t) (p : Port) :
    t.enabledEntries p = s.enabledEntries p := List.filter_congr fun e _ => by rw [h.node]

theorem State.enabledEntries_nodup (s : State) (p : Port) : (s.enabledEntries p).Nodup := List.nodup_range.filter _

theorem State.mem_enabledEntries (s : State) (p : Port) (e : Nat) :
    e ∈ s.enabledEntries p ↔ e < 32 ∧ (s.node e).state.enabled = true ∧ (s.node e).port = p := by
  simp [State.enabledEntries, nodeIndices, Config.nodeCount]

theorem SameTables.recordsAgree {s t : State} (h : SameTables s t) : RecordsAgree s t :=
  ⟨by rw [h.rest], by rw [h.rest]⟩

theorem State.probed_spec {s : State} (h : PortsOk s) (p : Port) (link : LinkState) :
    Probed (s.abandoned p link) (s.enabledEntries p) (s.probed p link) := by
  rw [← (State.abandoned_tables h p link).1.enabledEntries p]
  exact probed_foldl (State.enabledEntries_nodup _ p) (fun e he => ((State.mem_enabledEntries _ p e).mp he).1) _

/-- The entries of the port that become PROBING leave the ports alone. -/
theorem Probed.port {s t : State} {l : List Nat} (h : Probed s l t) (q : Port) : t.port q = s.port q := by
  rw [h.rest]
  cases q <;> rfl

theorem State.stopPort_tables {s : State} (h : PortsOk s) (p : Port) (link : LinkState) :
    SameTables (s.probed p link) (s.stopPort p link) := by
  refine SameTables.report (fun q => ?_) _ _
  rw [(State.probed_spec h p link).port]
  exact (State.abandoned_tables h p link).2.1 q

/-- The stopped port itself (R85, R86, R111). -/
theorem State.port_stopPort {s : State} (h : PortsOk s) (p : Port) (link : LinkState) :
    (s.stopPort p link).port p = (s.port p).stop link s.qgap := by
  have hport : (s.probed p link).port p = (s.port p).stop link s.qgap :=
    ((State.probed_spec h p link).port p).trans (State.abandoned_tables h p link).2.2
  rw [State.stopPort_eq, State.reportNodeLost, State.port_report_of_busy (by rw [hport]; rfl), hport]

/-- The records of the port's enabled entries become ORPHAN (R16). -/
theorem State.records_stopPort {s : State} (h : PortsOk s) (p : Port) (link : LinkState) :
    RecordsAgree (s.orphanTable ((s.enabledEntries p).flatMap s.ownedRecords)) (s.stopPort p link) := by
  have habandoned := (State.abandoned_tables h p link).1.recordsAgree
  have hprobed := (State.probed_spec h p link).table
  rw [funext fun e => habandoned.ownedRecords e] at hprobed
  exact ((habandoned.orphanTable _).trans hprobed).trans (State.stopPort_tables h p link).recordsAgree

/-- A stop changes nothing outside the ports, the tables, the pool, the inhibit unit and the events. -/
theorem State.stopPort_rest {s : State} (h : PortsOk s) (p : Port) (link : LinkState) :
    let t := s.stopPort p link
    t = { s with
          records := t.records, queue := t.queue, portA := t.portA, portB := t.portB, nodes := t.nodes
          requests := t.requests, completions := t.completions, inh := t.inh, sticky := t.sticky
          choices := t.choices } := by
  have habandoned := (State.abandoned_tables h p link).1.rest
  have hprobed : ProbesOnly _ _ := (State.probed_spec h p link).rest
  have hstopped := (State.stopPort_tables h p link).rest
  unfold ProbesOnly at hprobed
  dsimp only
  rw [hstopped, hprobed, habandoned]

/-- A stop leaves the port of every entry, and whether it is enabled (R125). -/
theorem State.enabledEntries_stopPort {s : State} (h : PortsOk s) (p : Port) (link : LinkState) :
    (s.stopPort p link).enabledEntries p = s.enabledEntries p := by
  refine List.filter_congr fun e _ => ?_
  rw [(State.stopPort_tables h p link).node, (State.probed_spec h p link).node]
  by_cases he : e ∈ s.enabledEntries p
  · obtain ⟨-, henabled, hport⟩ := (s.mem_enabledEntries p e).mp he
    rw [if_pos he, (State.abandoned_tables h p link).1.node]
    have hprobing : NodeState.probing.enabled = true := rfl
    simp [NodeEntry.probed, hprobing, henabled, hport]
  · rw [if_neg he, (State.abandoned_tables h p link).1.node]

/-! ### Where no gated request of an IDLE port is in front -/

/-- A stop of one port leaves the other with no gated request in front, if it had none. -/
theorem State.noneGated_of_other {s t : State} {p : Port} (h : s.noneGated) (hp : (t.port p).isIdle = false)
    (hport : ∀ q, q ≠ p → t.port q = s.port q) (holdest : ∀ q, q ≠ p → t.oldestWaiting q = s.oldestWaiting q) :
    t.noneGated := by
  intro q henabled hidle
  have hq : q ≠ p := fun hq => by rw [hq, hp] at hidle; cases hidle
  rw [hport q hq] at henabled hidle
  rw [holdest q hq]
  exact h q henabled hidle

/-- Requests that leave by their tags leave the requests of another port as they are, for no two share a tag (R136). -/
theorem find?_filter_tags {l gone : List Request} (hd : (l.map Request.tag).Nodup) (hsub : gone ⊆ l)
    {f : Request → Bool} (hf : ∀ q ∈ gone, f q = false) :
    (l.filter fun x => decide (x.tag ∉ gone.map Request.tag)).find? f = l.find? f := by
  have hstay : ∀ q ∈ l, f q = true → q.tag ∉ gone.map Request.tag := fun q hq hfq htag => by
    obtain ⟨x, hx, he⟩ := List.mem_map.mp htag
    rw [List.inj_on_of_nodup_map hd (hsub hx) hq he] at hx
    rw [hf q hx] at hfq
    cases hfq
  rw [List.find?_filter]
  refine List.find?_congr fun q hq => ?_
  cases hfq : f q with
  | false => simp
  | true => simpa using hstay q hq hfq

/-- The state before the entries of the stopped port are probed, where its reports start no arbiter. -/
structure Abandoned (s : State) (p : Port) (link : LinkState) (t : State) : Prop where
  port : ∀ q, q ≠ p → t.port q = s.port q
  choices : t.choices = s.choices
  node : ∀ e, t.node e =
    if polledEntry (s.port p).transaction = some e then { s.node e with polled := false } else s.node e
  requests : t.requests = s.requests.filter fun q => decide (q.tag ∉
    ((s.requests.filter fun q => q.port = p && q.state = .inFlight) ++ s.waitingOf p).map Request.tag)
  completions : t.completions = s.completions ++
    ((s.requests.filter fun q => q.port = p && q.state = .inFlight) ++ s.waitingOf p).map fun q =>
      ⟨q.tag, .flushed, q.attempts, s.epoch16⟩
  active : ∀ c, t.inh.isActive c = if c = portDown p ∧ (s.port p).link = .down then false else s.inh.isActive c
  mask : t.inh.mask = s.inh.mask
  mode : t.inh.mode = s.inh.mode
  delay : t.inh.delay = s.inh.delay
  otherEvents : t.otherEvents = s.otherEvents ||| if (s.port p).link = link then 0 else eventPort

theorem State.portLeft_noneGated {s : State} (h : s.noneGated) (p : Port) (link : LinkState) :
    (s.portLeft p link).noneGated := by
  have hrequests : (s.portLeft p link).requests = s.requests := by
    have hport := s.setPort_requests p ((s.port p).stop link s.qgap)
    exact ite_keeps (P := fun t => t.requests = s.requests) hport hport
  refine State.noneGated_of_other h (s.portLeft_busy p link) (fun q hq => ?_) fun q _ => ?_
  · rw [State.port_portLeft, if_neg hq]
  · rw [State.oldestWaiting, hrequests]
    rfl

theorem State.portLeft_eq (s : State) (p : Port) (link : LinkState) :
    s.portLeft p link =
      { s.setPort p ((s.port p).stop link s.qgap) with
        sticky := s.sticky ||| if (s.port p).link = link then 0 else eventPort } := by
  unfold State.portLeft
  dsimp only
  split
  · cases p <;> simp [State.setPort]
  · cases p <;> rfl

theorem State.endCycle_rest (s : State) (t : Option Transaction) :
    s.endCycle t = { s with nodes := (s.endCycle t).nodes } := by
  rw [State.endCycle_eq]
  cases polledEntry t <;> rfl

theorem State.node_endCycle (s : State) (t : Option Transaction) (e : Nat) :
    (s.endCycle t).node e = if polledEntry t = some e then { s.node e with polled := false } else s.node e := by
  rw [State.endCycle_eq]
  cases polledEntry t with
  | none => rfl
  | some e' =>
    show (s.setNode e' { s.node e' with polled := false }).node e = _
    rw [State.node_setNode]
    by_cases h : e' = e
    · subst h
      by_cases h32 : e' < 32
      · simp [h32]
      · simp [h32, s.node_of_le (by omega : 32 ≤ e')]
        rfl
    · simp [h, Ne.symm h]

/-- The report of PORT_x_DOWN where it starts no arbiter: the conditions, and no event but INHIBIT (R165). -/
theorem State.portLeft_reported {s : State} (hgated : s.noneGated) (p : Port) (link : LinkState) :
    ∃ t : State, (if (s.port p).link = .down then (s.portLeft p link).report (portDown p) false
        else s.portLeft p link) = t ∧
      t = { s.portLeft p link with inh := t.inh, sticky := t.sticky } ∧ SameSettings (s.portLeft p link) t ∧
      ∀ c, t.inh.isActive c = if c = portDown p ∧ (s.port p).link = .down then false else s.inh.isActive c := by
  have hinh : (s.portLeft p link).inh = s.inh := by rw [State.portLeft_eq]; simp
  by_cases hdown : (s.port p).link = .down
  · obtain ⟨u, k, hset⟩ := (s.portLeft p link).setCondition_eq (portDown p) false
    refine ⟨_, (if_pos hdown).trans (State.report_of_noneGated (s.portLeft_noneGated hgated p link) _ _), ?_,
      State.sameSettings_setCondition _ _ _, fun c => ?_⟩
    · rw [hset]
    · rw [State.isActive_setCondition_eq, hinh]
      simp [hdown]
  · refine ⟨_, if_neg hdown, rfl, SameSettings.refl _, fun c => ?_⟩
    rw [hinh]
    simp [hdown]

theorem or_eventPort_and_not (k : BitVec 9) :
    (k ||| eventPort) &&& ~~~eventInhibit = (k &&& ~~~eventInhibit) ||| eventPort := by
  revert k
  decide

theorem State.abandoned_spec {s : State} (hgated : s.noneGated) (p : Port) (link : LinkState) :
    Abandoned s p link (s.abandoned p link) := by
  obtain ⟨t, ht, hrest, hsettings, hactive⟩ := s.portLeft_reported hgated p link
  rw [State.portLeft_eq] at hrest hsettings
  have hcycle := t.endCycle_rest (s.port p).transaction
  have hnode := t.node_endCycle (s.port p).transaction
  have hflush := (t.endCycle (s.port p).transaction).flushRequests_eq p
  have habandoned : s.abandoned p link = (t.endCycle (s.port p).transaction).flushRequests p :=
    congrArg (fun u : State => (u.endCycle (s.port p).transaction).flushRequests p) ht
  have hports : ∀ q, t.port q = (s.setPort p ((s.port p).stop link s.qgap)).port q := fun q => by
    rw [hrest]
    cases q <;> rfl
  have hnodes : ∀ e, t.node e = s.node e := fun e => by
    rw [hrest]
    exact s.node_setPort e p _
  have hrequests : t.requests = s.requests := by rw [hrest]; exact s.setPort_requests p _
  have hcompletions : t.completions = s.completions := by rw [hrest]; cases p <;> rfl
  have hepoch : t.epoch16 = s.epoch16 := by rw [hrest]; cases p <;> rfl
  have hchoices : t.choices = s.choices := by rw [hrest]; cases p <;> rfl
  have hwaiting : (t.endCycle (s.port p).transaction).requests = s.requests := by rw [hcycle]; exact hrequests
  have hsticky : ({ s.setPort p ((s.port p).stop link s.qgap) with
      sticky := s.sticky ||| if (s.port p).link = link then 0 else eventPort } : State).otherEvents =
      s.otherEvents ||| if (s.port p).link = link then 0 else eventPort := by
    unfold State.otherEvents
    dsimp only
    split
    · simp
    · exact or_eventPort_and_not s.sticky
  rw [habandoned, hflush]
  refine ⟨fun q hq => ?port, ?choices, fun e => ?node, ?requests, ?completions, fun c => ?active, ?mask, ?mode, ?delay,
    ?otherEvents⟩
  case port =>
    have hsame := s.port_setPort p q ((s.port p).stop link s.qgap)
    rw [if_neg hq] at hsame
    rw [← hsame, ← hports q, hcycle]
    cases q <;> rfl
  case choices =>
    rw [← hchoices, hcycle]
  case node =>
    rw [← hnodes e, ← hnode e]
    rfl
  case requests => rw [State.waitingOf, State.waitingOf, hwaiting]
  case completions =>
    rw [State.waitingOf, State.waitingOf, hwaiting, ← hcompletions, ← hepoch, hcycle]
    rfl
  case active =>
    rw [← hactive c, hcycle]
  case mask =>
    rw [hcycle]
    exact hsettings.mask.trans (by simp)
  case mode =>
    rw [hcycle]
    exact hsettings.mode.trans (by simp)
  case delay =>
    rw [hcycle]
    exact hsettings.delay.trans (by simp)
  case otherEvents =>
    rw [hcycle]
    exact hsettings.otherEvents.trans hsticky

end Sys2Proof.Machine
end


section
/-! PROOF. PORT_DISABLE and PORT_RESET abandon what their port had (R85, R86, R111, R125, R154). -/

namespace Sys2Proof.Machine

/-! ### The records of the port's entries -/

/-- A record that the notices of `entries` make ORPHAN (R16). -/
def Record.lost (entries : List Nat) (rec : Record) : Bool :=
  entries.contains rec.entry && decide (rec.state ≠ .orphan)

/-- Record `r` sends its notice when the entries `entries` give theirs. -/
def State.toldOf (s : State) (entries : List Nat) (r : Nat) : Bool :=
  (s.record r).any fun rec => rec.lost entries && decide (rec.policy ≠ .silent)

theorem Record.tells_causeOrphan (rec : Record) : rec.tells causeOrphan = decide (rec.policy ≠ .silent) := by
  simp [Record.tells, causeOrphan]

/-- The records of several entries are those whose entry is among them. -/
theorem State.contains_flatMap_ownedRecords {s : State} {r : Nat} {rec : Record} (h : s.record r = some rec)
    (entries : List Nat) : (entries.flatMap s.ownedRecords).contains r = entries.contains rec.entry := by
  rw [Bool.eq_iff_iff, List.contains_iff_mem, List.contains_iff_mem, List.mem_flatMap]
  constructor
  · rintro ⟨e, he, hr⟩
    obtain ⟨rec', hrec', rfl⟩ := (s.mem_ownedRecords r e).mp hr
    rw [h] at hrec'
    cases hrec'
    exact he
  · exact fun he => ⟨rec.entry, he, (s.mem_ownedRecords r _).mpr ⟨rec, h, rfl⟩⟩

theorem State.toldOf_eq (s : State) (entries : List Nat) (r : Nat) :
    s.toldOf entries r = ((entries.flatMap s.ownedRecords).contains r && s.tellsOrphan r) := by
  unfold State.toldOf State.tellsOrphan
  cases h : s.record r with
  | none => simp
  | some rec =>
    simp only [Option.any_some, State.contains_flatMap_ownedRecords h, Record.tells_causeOrphan, Record.lost,
      Bool.and_assoc]

/-- The capture table after the notices of `entries`. -/
theorem State.records_orphanTable_owned (s : State) (entries : List Nat) :
    (s.orphanTable (entries.flatMap s.ownedRecords)).records =
      s.records.map fun x => x.map fun rec =>
        if rec.lost entries then { rec with state := .orphan, queued := rec.queued || decide (rec.policy ≠ .silent) }
        else rec := by
  refine Vector.ext fun r hr => ?_
  rw [Vector.getElem_map, ← State.record_eq_getElem _ hr, ← State.record_eq_getElem _ hr, State.record_orphanTable]
  cases h : s.record r with
  | none => simp
  | some rec =>
    rw [State.contains_flatMap_ownedRecords h, Option.map_some, Option.map_some, ← Record.tells_causeOrphan]
    unfold Record.lost Record.orphaned
    by_cases he : rec.entry ∈ entries <;> by_cases ho : rec.state = .orphan <;> simp [he, ho]

/-- The change queue after the notices of `entries`. -/
theorem State.queue_orphanTable_owned (s : State) (entries : List Nat) :
    (s.orphanTable (entries.flatMap s.ownedRecords)).queue =
      (s.queue.map fun q =>
        if s.toldOf entries q.record && s.isQueued q.record then { q with causes := q.causes ||| 0x10 } else q) ++
      (entries.flatMap fun e => (List.range 48).filter fun r =>
        s.toldOf entries r && !s.isQueued r && (s.record r).any fun rec => decide (rec.entry = e)).map
        (fun r => ⟨r, 0x10⟩) := by
  have hjoin : ((entries.flatMap s.ownedRecords).filter fun r => s.tellsOrphan r && !s.isQueued r) =
      entries.flatMap fun e => (List.range 48).filter fun r =>
        s.toldOf entries r && !s.isQueued r && (s.record r).any fun rec => decide (rec.entry = e) := by
    rw [List.filter_flatMap]
    refine List.flatMap_congr fun e he => ?_
    rw [State.ownedRecords, List.filter_filter]
    refine List.filter_congr fun r _ => ?_
    rw [State.toldOf_eq]
    cases howned : (s.record r).any fun rec => decide (rec.entry = e) with
    | false => simp
    | true =>
      obtain ⟨rec, hrec, hentry⟩ := (Option.any_eq_true _ _).mp howned
      rw [State.contains_flatMap_ownedRecords hrec, of_decide_eq_true hentry]
      simp [he]
  rw [← hjoin]
  refine congrArg (· ++ _) (List.map_congr_left fun x _ => ?_)
  rw [noticedEntry, State.toldOf_eq, Bool.and_assoc]
  rfl

/-! ### Where no gated request of an IDLE port is in front -/

theorem State.abandoned_noneGated {s : State} (hports : PortsOk s) (hpool : PoolOk s) (hgated : s.noneGated) (p : Port)
    (link : LinkState) : (s.abandoned p link).noneGated := by
  have hspec := State.abandoned_spec hgated p link
  refine State.noneGated_of_other hgated (p := p) ?_ hspec.port fun q hq => ?_
  · rw [(State.abandoned_tables hports p link).2.2]
    rfl
  · rw [State.oldestWaiting, hspec.requests]
    refine find?_filter_tags (List.Nodup.of_append_left hpool.distinct)
      (List.append_subset.mpr ⟨List.filter_subset_self _, List.filter_subset_self _⟩) fun x hx => ?_
    have hport : x.port = p := by
      rcases List.mem_append.mp hx with hx | hx <;> simp at hx <;> exact hx.2.1
    simp [hport, Ne.symm hq]

/-- The report of NODE_LOST that ends the stop starts no arbiter (R96, R142). -/
theorem State.stopPort_of_noneGated {s : State} (hports : PortsOk s) (hpool : PoolOk s) (hgated : s.noneGated)
    (p : Port) (link : LinkState) :
    s.stopPort p link = (s.probed p link).setCondition .nodeLost (s.probed p link).nodeLostLevel := by
  have hrest : ProbesOnly _ _ := (State.probed_spec hports p link).rest
  have hprobed : (s.probed p link).noneGated := by
    intro q
    have holdest : (s.probed p link).oldestWaiting q = (s.abandoned p link).oldestWaiting q := by
      rw [State.oldestWaiting, hrest]
      rfl
    rw [(State.probed_spec hports p link).port, holdest]
    exact State.abandoned_noneGated hports hpool hgated p link q
  rw [State.stopPort_eq, State.reportNodeLost, State.report_of_noneGated hprobed]

/-- A stopped port's entries are in the table and enabled on it. -/
theorem State.mem_enabledEntries_iff (s : State) (p : Port) (e : Nat) :
    e ∈ s.enabledEntries p ↔ (s.node e).state ≠ .vacant ∧ (s.node e).state ≠ .disabled ∧ (s.node e).port = p := by
  rw [State.enabledEntries_eq, List.mem_filter, List.mem_range, decide_eq_true_iff, and_iff_right_iff_imp]
  rintro ⟨hvacant, -, -⟩
  by_contra hout
  exact hvacant (congrArg NodeEntry.state (s.node_of_le (by omega : 32 ≤ e)))

/-- The nodes after a stop: no entry of the port is being polled any more, and those enabled are PROBING (R111,
R125). -/
theorem State.node_stopPort {s : State} (hports : PortsOk s) (hpool : PoolOk s) (hgated : s.noneGated) (p : Port)
    (link : LinkState) (e : Nat) :
    (s.stopPort p link).node e =
      let n := if polledEntry (s.port p).transaction = some e then { s.node e with polled := false } else s.node e
      if e ∈ s.enabledEntries p then n.probed else n := by
  obtain ⟨u, k, hset⟩ := (s.probed p link).setCondition_eq .nodeLost (s.probed p link).nodeLostLevel
  rw [State.stopPort_of_noneGated hports hpool hgated, hset]
  dsimp only
  rw [← (State.abandoned_spec hgated p link).node]
  exact (State.probed_spec hports p link).node e

/-- The conditions after a stop: PORT_x_DOWN of the port is inactive, and the levels of the tables are reported (R91,
R125, R133). -/
theorem State.isActive_stopPort {s : State} (hports : PortsOk s) (hpool : PoolOk s) (hgated : s.noneGated) (p : Port)
    (link : LinkState) (c : Condition) :
    (s.stopPort p link).inh.isActive c =
      if c = portDown p ∧ (s.port p).link = .down then false
      else if c = .nodeLost then (s.stopPort p link).nodeLostLevel
      else if c = .dataStale ∧ s.enabledEntries p ≠ [] then (s.stopPort p link).dataStaleLevel
      else s.inh.isActive c := by
  have hother : portDown p ≠ .nodeLost ∧ portDown p ≠ .dataStale := by cases p <;> decide
  obtain ⟨u, k, hset⟩ := (s.probed p link).setCondition_eq .nodeLost (s.probed p link).nodeLostLevel
  have hlost : ((s.probed p link).setCondition .nodeLost (s.probed p link).nodeLostLevel).nodeLostLevel =
      (s.probed p link).nodeLostLevel := by rw [hset]; rfl
  have hstale : ((s.probed p link).setCondition .nodeLost (s.probed p link).nodeLostLevel).dataStaleLevel =
      (s.probed p link).dataStaleLevel := by rw [hset]; rfl
  rw [State.stopPort_of_noneGated hports hpool hgated, State.isActive_setCondition_eq, hlost, hstale,
    (State.probed_spec hports p link).active, (State.abandoned_spec hgated p link).active]
  by_cases hc : c = portDown p
  · simp [hc, hother]
  · simp [hc]

/-- The unit's settings and the events after a stop: PORT where the link changes, NODE where an entry does (R125). -/
theorem State.settings_stopPort {s : State} (hports : PortsOk s) (hpool : PoolOk s) (hgated : s.noneGated) (p : Port)
    (link : LinkState) :
    let t := s.stopPort p link
    t.inh.mask = s.inh.mask ∧ t.inh.mode = s.inh.mode ∧ t.inh.delay = s.inh.delay ∧
      t.otherEvents = (s.otherEvents ||| if (s.port p).link = link then 0 else eventPort) |||
        if ∃ e ∈ s.enabledEntries p, (s.node e).state ≠ .probing then eventNode else 0 := by
  have habandoned := State.abandoned_spec hgated p link
  have hprobed := State.probed_spec hports p link
  have hsettings := State.sameSettings_setCondition (s.probed p link) .nodeLost (s.probed p link).nodeLostLevel
  have hstate : ∀ e, ((s.abandoned p link).node e).state = (s.node e).state := fun e => by
    rw [habandoned.node]
    split <;> rfl
  rw [← State.stopPort_of_noneGated hports hpool hgated] at hsettings
  refine ⟨hsettings.mask.trans (hprobed.mask.trans habandoned.mask),
    hsettings.mode.trans (hprobed.mode.trans habandoned.mode),
    hsettings.delay.trans (hprobed.delay.trans habandoned.delay), ?_⟩
  rw [hsettings.otherEvents, hprobed.otherEvents, habandoned.otherEvents]
  simp only [hstate]

/-- The other port, the index of free values and the pool after a stop (R111, R154). -/
theorem State.pool_stopPort {s : State} (hports : PortsOk s) (hpool : PoolOk s) (hgated : s.noneGated) (p : Port)
    (link : LinkState) :
    let t := s.stopPort p link
    let flushed := (s.requests.filter fun q => q.port = p && q.state = .inFlight) ++ s.waitingOf p
    (∀ q, q ≠ p → t.port q = s.port q) ∧ t.choices = s.choices ∧
      t.requests = s.requests.filter (fun q => decide (q.tag ∉ flushed.map Request.tag)) ∧
      t.completions = s.completions ++ flushed.map fun q => ⟨q.tag, .flushed, q.attempts, s.epoch16⟩ := by
  obtain ⟨u, k, hset⟩ := (s.probed p link).setCondition_eq .nodeLost (s.probed p link).nodeLostLevel
  have habandoned := State.abandoned_spec hgated p link
  have hprobed := State.probed_spec hports p link
  have hrest : ProbesOnly _ _ := hprobed.rest
  dsimp only
  rw [State.stopPort_of_noneGated hports hpool hgated]
  refine ⟨fun q hq => ?_, ?_, ?_, ?_⟩
  · rw [State.port_setCondition, hprobed.port, habandoned.port q hq]
  · rw [hset, ← habandoned.choices, hrest]
  · rw [hset, ← habandoned.requests, hrest]
  · rw [hset, ← habandoned.completions, hrest]

/-- Settles O31, from the stages of a stop: what the port leaves, what it abandons, and its entries becoming PROBING. -/
theorem portStopAbandonsAll : Obligations.PortStopAbandonsAll := by
  unfold Obligations.PortStopAbandonsAll
  intro s p link hports hpool
  have hentries := s.enabledEntries_eq p
  have hrecords := (State.records_stopPort hports p link).records
  have hqueue := (State.records_stopPort hports p link).queue
  rw [State.records_orphanTable_owned, hentries] at hrecords
  rw [State.queue_orphanTable_owned, hentries] at hqueue
  refine ⟨?tables, State.port_stopPort hports p link, fun hgated => ?settled⟩
  case tables =>
    refine Eq.trans (State.stopPort_rest hports p link) ?_
    rw [hrecords, hqueue]
    rfl
  case settled =>
    obtain ⟨hother, hchoices, hrequests, hcompletions⟩ := State.pool_stopPort hports hpool hgated p link
    obtain ⟨hmask, hmode, hdelay, hevents⟩ := State.settings_stopPort hports hpool hgated p link
    refine ⟨hother, hchoices, fun e => ?node, hrequests, hcompletions, fun c => ?active, hmask, hmode, hdelay, ?events⟩
    case node =>
      have hmem := s.mem_enabledEntries_iff p e
      rw [State.node_stopPort hports hpool hgated, if_congr hmem rfl rfl]
      simp only [decide_eq_true_iff]
      rfl
    case active =>
      rw [State.isActive_stopPort hports hpool hgated, hentries]
    case events =>
      refine hevents.trans ?_
      rw [hentries]
      unfold State.otherEvents
      split <;> split <;> simp [or_eventPort_and_not, or_eventNode_and_not]

end Sys2Proof.Machine
end


section
/-! PROOF. The commands that stop ports or clear their counters (R80, R85, R86, R125). -/

namespace Sys2Proof.Machine

/-- The arguments of CLEAR_COUNTERS (R80). -/
theorem portsOf_cases (v : Octet) : (v.toNat > 2 ∧ portsOf v = none) ∨ (¬v.toNat > 2 ∧ (v = 0 ∨ v = 1 ∨ v = 2)) := by
  revert v
  decide

/-- A reset port is SEARCHING, and the entries that were enabled fall due (R86, R125). -/
theorem State.resetPort_eq {s : State} (h : PortsOk s) (p : Port) :
    s.resetPort p =
      (s.enabledEntries p).foldl State.fallDue
        ((s.stopPort p .searching).modPort p fun ps => { ps with lastGrant := .request }) := by
  have hentries : ((s.stopPort p .searching).modPort p fun ps => { ps with lastGrant := .request }).enabledEntries p =
      s.enabledEntries p := by
    rw [← State.enabledEntries_stopPort h p .searching]
    exact List.filter_congr fun e _ => by rw [State.modPort, State.node_setPort]
  rw [State.resetPort, hentries]

/-- Settles O32: the stop does not depend on CMD (`State.stopPort_taken`), and leaves which entries are enabled. -/
theorem portDisableResetClear : Obligations.PortDisableResetClear := by
  intro s hports zero p enabled answer
  have hdisable : exec .portDisable s = execPortDisable s := rfl
  have hreset : exec .portReset s = execPortReset s := rfl
  have hclear : exec .clearCounters s = execClearCounters s := rfl
  rw [hdisable, hreset, hclear]
  have harg : ∀ code, (s.taken code).arg 0 = s.arg 0 := fun _ => rfl
  have hanswer : ∀ code c (t : State), (t.taken code).result c [] = answer code c t := fun _ _ _ => rfl
  rw [execPortDisable, execPortReset, execClearCounters, harg, harg, harg]
  refine ⟨congrArg Host.Outcome.next ?disable, congrArg Host.Outcome.next ?reset, congrArg Host.Outcome.next ?clear⟩
  case disable =>
    rcases portOf_cases (s.arg 0) with ⟨hbad, hp⟩ | ⟨hgood, hp, -⟩
    · rw [hp, if_pos hbad]
      exact hanswer _ _ _
    · rw [hp, if_neg hgood]
      dsimp only
      rw [State.port_taken, State.stopPort_taken, hanswer, hanswer, if_congr (PortState.enabled_iff _) rfl rfl, ite_not]
  case reset =>
    rcases portOf_cases (s.arg 0) with ⟨hbad, hp⟩ | ⟨hgood, hp, -⟩
    · rw [hp, if_pos hbad]
      exact hanswer _ _ _
    · rw [hp, if_neg hgood]
      dsimp only
      rw [State.port_taken, State.resetPort_taken, hanswer, hanswer, if_congr (PortState.enabled_iff _) rfl rfl,
        ite_not, State.resetPort_eq hports, State.enabledEntries_eq]
      rfl
  case clear =>
    rcases portsOf_cases (s.arg 0) with ⟨hbad, hnone⟩ | ⟨hgood, h | h | h⟩
    · rw [hnone, if_pos hbad]
      rfl
    all_goals
      rw [if_neg hgood, h]
      rfl

end Sys2Proof.Machine
end

section
/-! PROOF. The port's counters, the node entry at an address, and an attempt that was heard (R79, R82, R98, R128). -/

namespace Sys2Proof.Machine

/-- The entry at a port and an address, by what R98 and R128 ask of it. -/
theorem State.findNode_eq (s : State) (p : Port) (address : Nat) :
    s.findNode p address = (List.range 32).find? fun e =>
      decide ((s.node e).state ≠ .vacant ∧ (s.node e).port = p ∧ (s.node e).address = address) :=
  List.find?_congr fun e _ => by simp only [Bool.decide_and, Bool.and_assoc]

/-- The ports have no part in which entry stands at an address. -/
@[simp] theorem State.findNode_setPort (s : State) (q p : Port) (x : PortState) (address : Nat) :
    (s.setPort q x).findNode p address = s.findNode p address := by
  unfold State.findNode
  simp only [State.node_setPort]

/-- An attempt that was heard leaves the silence counter and the link as they are (R82). -/
theorem State.silenceUpdate_of_heard {s : State} {p : Port} (h : (s.port p).heard = true) : s.silenceUpdate p = s :=
  if_pos h

/-- A mismatch is counted before it fails the attempt (R79, R91, R102). -/
theorem State.mismatch_eq (s : State) (p : Port) (t : Transaction) :
    s.mismatch p t =
      (({ s with sticky := s.sticky ||| eventLinkError } : State).setPort p
        { s.port p with
          counters := { (s.port p).counters with
            formatErrors := min 65535 ((s.port p).counters.formatErrors + 1) } }).failAttempt p t := by
  cases p <;> rfl

end Sys2Proof.Machine
end

section
/-! PROOF. The statements of the frames and timers at a transaction. -/

namespace Sys2Proof.Machine

/-- Settles O39: the transaction in flight takes the frame by whether it is from the awaited node, what it asked for,
and what the frame answers. -/
theorem writeReplyTaken : Obligations.WriteReplyTaken := by
  intro s p t left f hheard htransaction _ ps completed mismatch
  have htaken : s.frameHandedOn p (.awaiting left) f = s.frameAwaited p t f := by
    unfold State.frameHandedOn
    rw [htransaction]
  have hmismatch : s.mismatch p t = mismatch := s.mismatch_eq p t
  have hcompleted : ∀ tag status, s.requestReplied p t tag status = completed tag status := fun tag status => by
    unfold State.requestReplied
    rw [State.silenceUpdate_of_heard hheard]
    cases p <;> rfl
  rw [htaken]
  unfold State.frameAwaited
  refine ⟨fun hother => ?stray, fun hawaited hpoll hbody => ?poll, fun tag itemType hawaited hrequest => ?request⟩
  case stray =>
    rw [if_neg hother]
    rfl
  case poll =>
    rw [if_pos hawaited, hpoll]
    cases hf : f.body with
    | data items => exact absurd hf (hbody items)
    | ack x => exact hmismatch
    | nak x reason => exact hmismatch
  case request =>
    rw [if_pos hawaited, hrequest]
    cases f.body with
    | data items => exact hmismatch
    | ack x => exact if_congr Iff.rfl (hcompleted tag .ok) hmismatch
    | nak x reason => exact if_congr Iff.rfl (hcompleted tag (.nak reason)) hmismatch

/-- Settles O40: the late notice looks for its entry in the state in which the port has counted the frame, which leaves
the node table as it is. -/
theorem lateAndStrayFrames : Obligations.LateAndStrayFrames := by
  intro s p f ps stray
  refine ⟨rfl, fun awaited left => if_congr Iff.rfl ?late rfl⟩
  unfold State.lateNotice State.modCounters State.modPort State.modNode
  rw [State.findNode_setPort, State.findNode_eq]
  simp only [State.node_setPort]
  split <;> rename_i he <;> rw [he] <;> rfl

/-- Settles O43: with the port known, the rows ask for the sequencer, the transaction and what it awaits in the order in
which the statement does, and have no effect in the other states (entry 3). -/
theorem portTimersExpire : Obligations.PortTimersExpire := by
  intro s p ps
  refine ⟨congrArg Host.Outcome.next ?transmit, congrArg Host.Outcome.next ?timeout, congrArg Host.Outcome.next ?quiet,
    fun awaited => rfl⟩
  case transmit => cases p <;> rfl
  case timeout => cases p <;> rfl
  case quiet =>
    unfold State.quietEnded
    cases (s.port p).sequencer <;> rfl

end Sys2Proof.Machine
end

section
/-! PROOF. The arbiters that a fall of INH starts (R96, R142, R177). -/

namespace Sys2Proof.Machine

theorem PortState.isIdle_iff (ps : PortState) : ps.isIdle = true ↔ ps.sequencer = .idle := decide_eq_true_iff

/-- The arbiters of the ports that a test picks: none, one, or both in an order that a free value decides (entry 5). -/
theorem State.evaluatePorts_filter (s : State) (picked : Port → Bool) :
    let chosen : State := { s with choices := s.choices + 1 }
    let evaluated := s.evaluatePorts ([Port.A, Port.B].filter picked)
    (picked .A = false → picked .B = false → evaluated = s) ∧
    (picked .A = true → picked .B = false → evaluated = s.evaluate .A) ∧
    (picked .A = false → picked .B = true → evaluated = s.evaluate .B) ∧
    (picked .A = true → picked .B = true →
      evaluated = (chosen.evaluate .A).evaluate .B ∨ evaluated = (chosen.evaluate .B).evaluate .A) := by
  intro chosen evaluated
  refine ⟨fun ha hb => ?_, fun ha hb => ?_, fun ha hb => ?_, fun ha hb => ?both⟩
  case both =>
    have hports : [Port.A, Port.B].filter picked = [.A, .B] := by simp [ha, hb]
    simp only [evaluated, hports]
    exact ite_eq_or_eq _ _ _
  all_goals
    simp only [evaluated, List.filter, ha, hb]
    rfl

end Sys2Proof.Machine
end

section
/-! PROOF. The statement of a fall of INH. -/

namespace Sys2Proof.Machine

/-- Settles O52: the ports whose arbiters evaluate are those that the statement asks for. -/
theorem inhFallStartsArbiters : Obligations.InhFallStartsArbiters := by
  intro s t gated counted
  have hpicked : ∀ p, ((t.port p).enabled && (t.port p).isIdle && (t.oldestWaiting p).any Request.gated) = gated p :=
    fun p => by
      have hidle : ((t.port p).enabled && (t.port p).isIdle) =
          decide ((t.port p).link ≠ .disabled ∧ (t.port p).sequencer = .idle) := by
        rw [Bool.eq_iff_iff, Bool.and_eq_true, PortState.enabled_iff, PortState.isIdle_iff, decide_eq_true_iff]
      rw [hidle]
      rfl
  have hgated : t.evaluateGated = t.evaluatePorts ([Port.A, Port.B].filter gated) :=
    congrArg t.evaluatePorts (List.filter_congr fun p _ => hpicked p)
  refine ⟨fun hno => ?stays, fun hs ht => ?falls⟩
  case stays =>
    refine if_neg ?_
    rcases hno with h | h <;> simp [h]
  case falls =>
    have hfall : afterInhibit s t = t.evaluateGated := if_pos (by simp [hs, ht])
    rw [hfall, hgated]
    exact t.evaluatePorts_filter gated

end Sys2Proof.Machine
end

section
/-! PROOF. What stands to come about on an empty queue, and which of it does (entries 1, 2 and 6). -/

namespace Sys2Proof.Machine

/-- Which block's share of a mark stands to come about: the record access unit waits for the capture table (R52). -/
def State.takes (s : State) (b : MarkBlock) : Prop :=
  b ∈ s.marks ∧ (b = .recordAccess → MarkBlock.captureTable ∉ s.marks)

theorem State.portTimer_mem_ripeEvents (s : State) (p : Port) :
    .portTimer p ∈ s.ripeEvents ↔ (s.port p).sequencer.ripe = true := by
  unfold State.ripeEvents
  split
  · split <;> cases p <;> simp
  · cases p <;> simp

theorem State.boundary_mem_ripeEvents (s : State) :
    .boundary ∈ s.ripeEvents ↔ s.marks = [] ∧ s.epoch.ripe = true := by
  unfold State.ripeEvents
  split
  · split <;> simp_all
  · simp_all

theorem State.mark_mem_ripeEvents (s : State) (b : MarkBlock) : .mark b ∈ s.ripeEvents ↔ s.takes b := by
  unfold State.ripeEvents State.takes
  split
  · split <;> simp_all
  · simp [imp_iff_not_or]

/-- While a mark is outstanding, some block's share of it stands to come about. -/
theorem State.exists_takes {s : State} (h : s.marks ≠ []) : ∃ b, s.takes b := by
  by_cases hc : MarkBlock.captureTable ∈ s.marks
  · exact ⟨.captureTable, hc, fun h => by cases h⟩
  · obtain ⟨b, hb⟩ := List.exists_mem_of_ne_nil _ h
    exact ⟨b, hb, fun _ => hc⟩

/-- Without a timer that has run out and without an outstanding mark, the boundary alone can stand to come about. -/
theorem State.ripeEvents_of_unmarked {s : State} (hports : ∀ p, (s.port p).sequencer.ripe = false)
    (hmarks : s.marks = []) : s.ripeEvents = if s.epoch.ripe then [.boundary] else [] := by
  simp [State.ripeEvents, hports, hmarks]

/-- One port's timer that has run out, without an outstanding mark and within the epoch. -/
theorem State.ripeEvents_of_timer {s : State} {p : Port} (hp : (s.port p).sequencer.ripe = true)
    (hother : ∀ q, (s.port q).sequencer.ripe = true → q = p) (hmarks : s.marks = []) (hepoch : s.epoch.ripe = false) :
    s.ripeEvents = [.portTimer p] := by
  have hne : ∀ q, q ≠ p → (s.port q).sequencer.ripe = false := fun q hq => Bool.eq_false_iff.mpr (mt (hother q) hq)
  cases p <;> simp [State.ripeEvents, List.filter, hp, hne, hmarks, hepoch]

/-- One block's share of a mark, without a timer that has run out. -/
theorem State.ripeEvents_of_mark {s : State} {b : MarkBlock} (hports : ∀ p, (s.port p).sequencer.ripe = false)
    (hmarks : s.marks = [b]) : s.ripeEvents = [.mark b] := by
  cases b <;> simp [State.ripeEvents, hports, hmarks]

theorem State.idleStep_of_held {s : State} (h : s.held = true) : s.idleStep = s := if_pos h

theorem State.idleStep_of_none {s : State} (hheld : s.held = false) (h : s.ripeEvents = []) : s.idleStep = s.tick := by
  simp [State.idleStep, hheld, h]

theorem State.idleStep_of_one {s : State} {e : AutoEvent} (hheld : s.held = false) (h : s.ripeEvents = [e]) :
    s.idleStep = s.autoEvent e := by
  simp [State.idleStep, hheld, h]

/-- Of what stands to come about, something does; of several, one that a free value picks (entry 6). -/
theorem State.idleStep_of_some {s : State} (hheld : s.held = false) (h : s.ripeEvents ≠ []) :
    ∃ e ∈ s.ripeEvents, ∃ t ∈ [s, { s with choices := s.choices + 1 }], s.idleStep = t.autoEvent e := by
  unfold State.idleStep
  rw [if_neg (by simp [hheld])]
  cases hripe : s.ripeEvents with
  | nil => exact absurd hripe h
  | cons e es =>
    cases es with
    | nil => exact ⟨e, List.mem_singleton_self e, s, List.mem_cons_self, rfl⟩
    | cons e' es =>
      have hlt : Config.freeChoice s.choices % (e :: e' :: es).length < (e :: e' :: es).length :=
        Nat.mod_lt _ (Nat.succ_pos _)
      refine ⟨_, ?_, { s with choices := s.choices + 1 }, List.mem_cons_of_mem _ List.mem_cons_self, rfl⟩
      rw [List.getD_eq_getElem _ _ hlt]
      exact List.getElem_mem hlt

/-- 0.25 µs of every timer that runs (R156). -/
theorem State.tick_eq (s : State) :
    s.tick =
      { s with
        portA := { s.portA with sequencer := s.portA.sequencer.tick }
        portB := { s.portB with sequencer := s.portB.sequencer.tick }
        epoch :=
          { s.epoch with
            elapsed := if s.epoch.period.isSome then s.epoch.elapsed + 1 else s.epoch.elapsed } } := by
  unfold State.tick EpochTimer.tick
  cases s.epoch.period.isSome <;> rfl

end Sys2Proof.Machine
end

section
/-! PROOF. The statement of an empty queue. -/

namespace Sys2Proof.Machine

/-- Settles O2: what stands to come about is what the statement lists, and one of it does. -/
theorem idleQueuePassesTime : Obligations.IdleQueuePassesTime := by
  intro s hpending ripe ending takes ended boundary less
  have hstep : step s = .next s.idleStep := by
    unfold step
    rw [hpending]
  have hripe : ∀ p, (s.port p).sequencer.ripe = ripe p := fun p => by
    simp only [ripe]
    cases (s.port p).sequencer <;> rfl
  have hending : s.marks = [] → s.epoch.ripe = ending := fun hmarks =>
    ((congrArg (· && s.epoch.ripe) (decide_eq_true hmarks)).trans (Bool.true_and _)).symm
  have hunmarked : ending = true → s.marks = [] := fun hend =>
    of_decide_eq_true (Bool.and_eq_true_iff.mp hend).1
  have hended : ∀ t p, (.next (State.autoEvent t (.portTimer p)) : Answer) = ended t p := fun t p => by
    simp only [ended, State.autoEvent]
    cases (t.port p).sequencer <;> rfl
  have hports : (∀ p, ripe p = false) → ∀ p, (s.port p).sequencer.ripe = false := fun h p => (hripe p).trans (h p)
  rw [hstep]
  refine ⟨fun hheld => by rw [State.idleStep_of_held hheld], fun hheld => ⟨?tick, ?timer, ?boundary, ?mark, ?several⟩⟩
  case tick =>
    intro hnone hmarks hepoch
    have hevents := State.ripeEvents_of_unmarked (hports hnone) hmarks
    rw [hending hmarks, hepoch] at hevents
    rw [State.idleStep_of_none hheld hevents, State.tick_eq]
    have hless : ∀ ps : PortState, { ps with sequencer := ps.sequencer.tick } = less ps := fun ps => by
      simp only [less]
      cases ps.sequencer <;> rfl
    rw [hless, hless]
  case timer =>
    intro p hp hother hmarks hepoch
    have hevents := State.ripeEvents_of_timer ((hripe p).trans hp) (fun q hq => hother q ((hripe q).symm.trans hq)) hmarks
      ((hending hmarks).trans hepoch)
    rw [State.idleStep_of_one hheld hevents, hended]
  case boundary =>
    intro hnone hend
    have hevents := State.ripeEvents_of_unmarked (hports hnone) (hunmarked hend)
    rw [hending (hunmarked hend), hend] at hevents
    rw [State.idleStep_of_one hheld hevents]
    rfl
  case mark =>
    intro b hnone hmarks
    rw [State.idleStep_of_one hheld (State.ripeEvents_of_mark (hports hnone) hmarks)]
    rfl
  case several =>
    intro hsome
    have hne : s.ripeEvents ≠ [] := by
      rcases hsome with ⟨p, hp⟩ | hend | hmarks
      · exact List.ne_nil_of_mem ((s.portTimer_mem_ripeEvents p).mpr ((hripe p).trans hp))
      · have hmarks := hunmarked hend
        exact List.ne_nil_of_mem (s.boundary_mem_ripeEvents.mpr ⟨hmarks, (hending hmarks).trans hend⟩)
      · obtain ⟨b, hb⟩ := State.exists_takes hmarks
        exact List.ne_nil_of_mem ((s.mark_mem_ripeEvents b).mpr hb)
    obtain ⟨e, he, t, ht, hidle⟩ := State.idleStep_of_some hheld hne
    refine ⟨t, ht, ?_⟩
    rw [hidle]
    cases e with
    | portTimer p => exact .inl ⟨p, (hripe p).symm.trans ((s.portTimer_mem_ripeEvents p).mp he), hended t p⟩
    | boundary =>
      obtain ⟨hmarks, hepoch⟩ := s.boundary_mem_ripeEvents.mp he
      exact .inr (.inl ⟨(hending hmarks).symm.trans hepoch, rfl⟩)
    | mark b => exact .inr (.inr ⟨b, (s.mark_mem_ripeEvents b).mp he, rfl⟩)

end Sys2Proof.Machine
end

section
/-! PROOF. Who is granted: the choice between the candidates of a port, and the search for its request candidate (R97,
R98, R107). -/

namespace Sys2Proof.Machine

/-! ### The candidates -/

/-- The choice between the poll candidate and a request candidate of a port (R97, steps 2 to 5). -/
def State.grantBetween (s : State) (p : Port) (candidate : Option Request) : State :=
  match candidate with
  | none =>
    match (s.port p).dueList with
    | [] => s
    | e :: _ => s.grantPoll p e
  | some q =>
    match (s.port p).dueList with
    | [] => s.grantRequest p q
    | e :: _ => if (s.port p).lastGrant = .request then s.grantPoll p e else s.grantRequest p q

/-- First attempts are granted between the candidates that the search leaves (R97). -/
theorem State.grantFirst_eq {s t : State} {p : Port} {candidate : Option Request}
    (h : s.requestCandidate p (s.waitingOf p) = (t, candidate)) : s.grantFirst p = t.grantBetween p candidate := by
  unfold State.grantFirst State.grantBetween
  rw [h]
  dsimp only
  cases candidate with
  | none => cases (t.port p).dueList <;> rfl
  | some q =>
    cases (t.port p).dueList with
    | nil => rfl
    | cons e es => cases (t.port p).lastGrant <;> rfl

/-- The oldest WAITING request of a port is the first of them (R138). -/
theorem State.waitingOf_head? (s : State) (p : Port) :
    (s.waitingOf p).head? = s.requests.find? fun q => q.port = p && q.state = .waiting := List.head?_filter

/-- A unicast request's target can be sent to, by the states that R98 names. -/
theorem State.targetReachable_eq (s : State) (p : Port) (address : Nat) :
    s.targetReachable p address =
      match (List.range 32).find? fun e =>
          decide ((s.node e).state ≠ .vacant ∧ (s.node e).port = p ∧ (s.node e).address = address) with
      | none => false
      | some e => decide ((s.node e).state ≠ .disabled ∧ (s.node e).state ≠ .absent) := by
  unfold State.targetReachable
  rw [State.findNode_eq]
  generalize hfind : (List.range 32).find? _ = found
  cases found with
  | none => rfl
  | some e =>
    have hvacant : (s.node e).state ≠ .vacant := (of_decide_eq_true (List.find?_some hfind :)).1
    dsimp only
    rw [Bool.eq_iff_iff]
    simp [NodeState.enabled_iff, hvacant]

/-- The rest of the WAITING requests wait on when the oldest of them completes, for no two share a tag (R136, R138). -/
theorem State.waitingOf_complete {s : State} (htags : (s.requests.map fun q => q.tag).Nodup) {p : Port} {q : Request}
    {rest : List Request} (h : s.waitingOf p = q :: rest) (status : Status) :
    (s.complete q status).waitingOf p = rest := by
  have hapart : ((q :: rest).map Request.tag).Nodup := by
    rw [← h]
    exact htags.sublist (List.filter_sublist.map _)
  have hstay : ∀ x ∈ rest, x.tag ≠ q.tag := fun x hx htag =>
    (List.nodup_cons.mp hapart).1 (htag ▸ List.mem_map_of_mem hx)
  have hfilter : (s.complete q status).waitingOf p = (s.waitingOf p).filter fun x => x.tag ≠ q.tag := by
    unfold State.waitingOf
    rw [State.complete_requests, List.filter_filter, List.filter_filter]
    exact List.filter_congr fun x _ => Bool.and_comm _ _
  rw [hfilter, h, List.filter_cons_of_neg (by simp), List.filter_eq_self.mpr fun x hx => by simpa using hstay x hx]

/-! ### The arbiter -/

theorem State.arbitrates_iff {s : State} {p : Port} :
    ((s.port p).enabled && (s.port p).isIdle) = true ↔
      ¬((s.port p).link = .disabled ∨ (s.port p).sequencer ≠ .idle) := by
  rw [Bool.and_eq_true, PortState.enabled_iff, PortState.isIdle_iff, not_or, not_not]

/-- Only the arbiter of an enabled port whose sequencer is IDLE grants (R94, R97). -/
theorem State.evaluate_of_off {s : State} {p : Port} (h : (s.port p).link = .disabled ∨ (s.port p).sequencer ≠ .idle) :
    s.evaluate p = s := if_neg fun hon => State.arbitrates_iff.mp hon h

/-- An IDLE enabled port without a transaction is granted first attempts (R97). -/
theorem State.evaluate_of_free {s : State} {p : Port}
    (h : ¬((s.port p).link = .disabled ∨ (s.port p).sequencer ≠ .idle)) (hfree : (s.port p).transaction = none) :
    s.evaluate p = s.grantFirst p := by
  unfold State.evaluate
  rw [if_pos (State.arbitrates_iff.mpr h), hfree]

/-- A transaction without a pending retry is left alone (R94). -/
theorem State.evaluate_of_unpending {s : State} {p : Port} {t : Transaction}
    (ht : (s.port p).transaction = some t) (hretry : t.retryPending = false) : s.evaluate p = s := by
  unfold State.evaluate
  rw [ht]
  simp [hretry]

/-- A pending retry comes first: it is started, or dropped and reported, and then the evaluation goes on without it
(R97, R107). -/
theorem State.evaluate_of_pending {s : State} {p : Port}
    (h : ¬((s.port p).link = .disabled ∨ (s.port p).sequencer ≠ .idle)) {t : Transaction}
    (ht : (s.port p).transaction = some t) (hretry : t.retryPending = true) :
    s.evaluate p = if s.retryDropped p t then (s.reportFailed p t).evaluate p else s.startAttempt p t := by
  have hport : (s.reportFailed p t).port p = { s.port p with transaction := none } :=
    (s.port_reportFailed p p t).trans (if_pos rfl)
  have hdropped : (s.reportFailed p t).evaluate p = (s.reportFailed p t).grantFirst p :=
    State.evaluate_of_free (by rw [hport]; exact h) (by rw [hport])
  rw [hdropped]
  unfold State.evaluate
  rw [if_pos (State.arbitrates_iff.mpr h), ht]
  exact if_pos hretry

/-- A pending retry is dropped where the host wants it aborted, where its entry has been disabled, or where it is a poll
on a DOWN port (R107). -/
theorem State.retryDropped_iff (s : State) (p : Port) (t : Transaction) :
    s.retryDropped p t = true ↔
      s.abortPending t = true ∨ t.entryLost = true ∨ (t.work = .poll ∧ (s.port p).link = .down) := by
  simp only [State.retryDropped, Transaction.isPoll, Bool.or_eq_true, Bool.and_eq_true, decide_eq_true_iff, or_assoc]

/-! ### The request candidate -/

/-- With no request WAITING there is no request candidate. -/
theorem State.grantFirst_of_idlePool {s : State} {p : Port} (h : s.waitingOf p = []) :
    s.grantFirst p = s.grantBetween p none := by
  refine State.grantFirst_eq ?_
  rw [h]
  rfl

/-- An inhibit-gated request that is the oldest WAITING one is held back, and the ones behind it, while INH is asserted
(R98). -/
theorem State.grantFirst_of_heldBack {s : State} {p : Port} {q : Request} {rest : List Request}
    (h : s.waitingOf p = q :: rest) (hgated : (q.gated && s.inhAsserted) = true) :
    s.grantFirst p = s.grantBetween p none := by
  refine State.grantFirst_eq ?_
  rw [h]
  exact if_pos hgated

/-- A broadcast, or a request whose target can be sent to, is the request candidate (R98). -/
theorem State.grantFirst_of_reachable {s : State} {p : Port} {q : Request} {rest : List Request}
    (h : s.waitingOf p = q :: rest) (hgated : ¬(q.gated && s.inhAsserted) = true)
    (hreachable : (q.isBroadcast || s.targetReachable p q.address) = true) :
    s.grantFirst p = s.grantBetween p (some q) := by
  refine State.grantFirst_eq ?_
  rw [h]
  exact (if_neg hgated).trans (if_pos hreachable)

/-- A request whose target cannot be reached completes, and the evaluation goes on without it (R98). -/
theorem State.grantFirst_of_unreachable {s : State} (htags : (s.requests.map fun q => q.tag).Nodup) {p : Port}
    {q : Request} {rest : List Request} (h : s.waitingOf p = q :: rest) (hgated : ¬(q.gated && s.inhAsserted) = true)
    (hunreachable : ¬(q.isBroadcast || s.targetReachable p q.address) = true) :
    s.grantFirst p = (s.complete q .nodeAbsent).grantFirst p := by
  have hsearch : s.requestCandidate p (s.waitingOf p) =
      (s.complete q .nodeAbsent).requestCandidate p ((s.complete q .nodeAbsent).waitingOf p) := by
    rw [State.waitingOf_complete htags h, h]
    exact (if_neg hgated).trans (if_neg hunreachable)
  unfold State.grantFirst
  rw [hsearch]

end Sys2Proof.Machine
end

section
/-! PROOF. The statement of the grants. -/

namespace Sys2Proof.Machine

/-- Settles O44: a pending retry by R107, and else the oldest WAITING request by whether it is held back, cannot be sent
or takes its turn. -/
theorem grantChoosesWinner : Obligations.GrantChoosesWinner := by
  intro s p htags ps oldest reachable
  refine ⟨rfl, ?_⟩
  by_cases hoff : ps.link = .disabled ∨ ps.sequencer ≠ .idle
  · rw [if_pos hoff]
    exact State.evaluate_of_off hoff
  rw [if_neg hoff]
  cases htransaction : ps.transaction with
  | some t =>
    dsimp only
    cases hretry : t.retryPending with
    | false => exact State.evaluate_of_unpending htransaction hretry
    | true =>
      rw [State.evaluate_of_pending hoff htransaction hretry, if_neg (by decide : ¬true = false)]
      exact if_congr (State.retryDropped_iff s p t) rfl rfl
  | none =>
    rw [State.evaluate_of_free hoff htransaction]
    cases hwaiting : s.waitingOf p with
    | nil =>
      have holdest : oldest = none := by simp [oldest, ← State.waitingOf_head?, hwaiting]
      rw [State.grantFirst_of_idlePool hwaiting, holdest]
      unfold State.grantBetween
      cases (s.port p).dueList <;> rfl
    | cons q rest =>
      have holdest : oldest = some q := by simp [oldest, ← State.waitingOf_head?, hwaiting]
      have hlost : ¬(q.isBroadcast || s.targetReachable p q.address) = true ↔ q.address ≠ 63 ∧ reachable q = false := by
        rw [Bool.not_eq_true, Bool.or_eq_false_iff, State.targetReachable_eq]
        exact and_congr_left' decide_eq_false_iff_not
      rw [holdest]
      by_cases hgated : (q.gated && s.inhAsserted) = true
      · rw [State.grantFirst_of_heldBack hwaiting hgated]
        exact (if_pos hgated).symm
      refine Eq.trans ?_ (if_neg hgated).symm
      by_cases hreachable : (q.isBroadcast || s.targetReachable p q.address) = true
      · rw [State.grantFirst_of_reachable hwaiting hgated hreachable]
        exact (if_neg (mt hlost.mpr (not_not.mpr hreachable))).symm
      · have hcompleted : (s.complete q .nodeAbsent).port p = s.port p := s.port_complete q .nodeAbsent p
        rw [State.grantFirst_of_unreachable htags hwaiting hgated hreachable, if_pos (hlost.mp hreachable),
          State.evaluate_of_free (by rw [hcompleted]; exact hoff) (by rw [hcompleted]; exact htransaction)]

end Sys2Proof.Machine
end

section
/-! PROOF. An attempt's start at its port, the frame that it sends, and the levels of the line in SENDING (R70, R71, R99,
R100). -/

namespace Sys2Proof.Machine

/-! ### Attempts -/

/-- A port that begins an attempt with a frame: what the attempt is and whether it is to be heard, the transmit count, a
frame being received cut off and counted stray, and the time in SENDING (R76, R99). -/
def PortState.beginning (ps : PortState) (t : Transaction) (tmo : Octet) (frame : List Octet) : PortState :=
  { ps with
    transaction := some t
    heard := if t.awaited = none then ps.heard else false
    transmitCount := ps.transmitCount + 1
    counters :=
      { ps.counters with
        stray := if ps.deframer = .hunting then ps.counters.stray else min 65535 (ps.counters.stray + 1) }
    deframer := .hunting
    receiver := .fresh
    sequencer := .sending frame tmo (sendingTicks ps.lineRate frame) }

/-- The next attempt of a transaction (R99). -/
def Transaction.next (t : Transaction) : Transaction := { t with made := t.made + 1, retryPending := false }

/-- A broadcast awaits no reply, and leaves the heard mark (R99). -/
theorem heardMark_eq (awaited : Option Nat) (heard : Bool) :
    (if awaited.isSome then false else heard) = if awaited = none then heard else false := by
  cases awaited <;> rfl

/-- A frame being received is counted in one counter alone (R76, R79). -/
theorem PortState.stray_eq (ps : PortState) :
    (if ps.deframer = .hunting then ps.counters
      else { ps.counters with stray := satInc Config.count16Max ps.counters.stray }) =
    { ps.counters with
      stray := if ps.deframer = .hunting then ps.counters.stray else min 65535 (ps.counters.stray + 1) } := by
  split <;> rfl

/-- An attempt of a poll cycle changes its port alone (R99). -/
theorem State.startAttempt_poll {s : State} {p : Port} {t : Transaction} (h : t.work = .poll) :
    s.startAttempt p t = s.setPort p ((s.port p).beginning t.next s.tmo
      (pollFrame (t.awaited.getD 0) (decide (1 < t.made + 1)) (s.port p).transmitCount)) := by
  obtain ⟨work, entry, awaited, allowed, made, firstInDown, retryPending, entryLost⟩ := t
  obtain rfl : work = .poll := h
  unfold State.startAttempt State.modPort
  simp only [heardMark_eq, PortState.stray_eq]
  rfl

/-- An attempt of a request changes its port, and has the pool count it (R99, R141). -/
theorem State.startAttempt_request {s : State} {p : Port} {t : Transaction} {tag : Octet} {itemType : ItemType}
    {q : Request} (h : t.work = .request tag itemType) (hq : s.requestOf tag = some q) :
    s.startAttempt p t =
      (s.modRequest tag fun x => { x with state := .inFlight, attempts := t.made + 1 }).setPort p
        ((s.port p).beginning t.next s.tmo (writeFrame q (s.port p).transmitCount)) := by
  obtain ⟨work, entry, awaited, allowed, made, firstInDown, retryPending, entryLost⟩ := t
  obtain rfl : work = .request tag itemType := h
  unfold State.startAttempt State.attemptFrame State.modPort
  simp only [hq, State.port_modRequest, heardMark_eq, PortState.stray_eq]
  rfl

/-- The first attempt of a poll cycle (R95, R99). -/
theorem State.grantPoll_eq (s : State) (p : Port) (e : Nat) :
    s.grantPoll p e =
      (s.setNode e { s.node e with polled := true }).setPort p
        ({ s.port p with dueList := (s.port p).dueList.erase e, lastGrant := .poll : PortState }.beginning
          { work := .poll, entry := some e, awaited := some (s.node e).address, allowed := 1 + (s.node e).retryLimit
            made := 1, firstInDown := decide ((s.port p).link = .down), retryPending := false, entryLost := false }
          s.tmo (pollFrame (s.node e).address false (s.port p).transmitCount)) := by
  unfold State.grantPoll
  dsimp only
  rw [State.startAttempt_poll rfl]
  cases p <;> rfl

/-- A request is a broadcast by its address (R71). -/
theorem Request.ite_isBroadcast {α : Type} (q : Request) (x y : α) :
    (if q.isBroadcast then x else y) = if q.address = 63 then x else y := if_congr decide_eq_true_iff rfl rfl

/-- The first attempt of a request (R95, R98, R99, R101). -/
theorem State.grantRequest_eq {s : State} (p : Port) {q : Request} (hq : s.requestOf q.tag = some q) :
    s.grantRequest p q =
      (s.modRequest q.tag fun x => { x with state := .inFlight, attempts := 1 }).setPort p
        ({ s.port p with lastGrant := .request : PortState }.beginning
          { work := .request q.tag q.itemType, entry := if q.address = 63 then none else s.findNode p q.address
            awaited := if q.address = 63 then none else some q.address
            allowed := if q.address = 63 then 1 else 1 + q.retryCount
            made := 1, firstInDown := decide ((s.port p).link = .down), retryPending := false, entryLost := false }
          s.tmo (writeFrame q (s.port p).transmitCount)) := by
  have hstays : (s.modPort p fun ps => { ps with lastGrant := .request }).requestOf q.tag = some q := by
    rw [← hq]
    cases p <;> rfl
  unfold State.grantRequest
  simp only [Request.ite_isBroadcast]
  rw [State.startAttempt_request rfl hstays]
  cases p <;> rfl

/-! ### Frames -/

/-- A frame that the part sends: the header, the body and the check over both (R71, R73, R199). -/
def sentFrame (dest kind seq : Octet) (body : List Octet) : List Octet :=
  let covered := [dest, 0, kind, seq, octetOf body.length] ++ body
  startDelimiterOctet :: covered ++ [highOctet (crc covered), lowOctet (crc covered)]

theorem pollFrame_eq (dest : Nat) (retry : Bool) (seq : Octet) :
    pollFrame dest retry seq = sentFrame (octetOf dest) (if retry then 0x81 else 0x01) seq [] := by
  cases retry <;> rfl

theorem writeFrame_eq (q : Request) (seq : Octet) :
    writeFrame q seq =
      sentFrame (octetOf q.address) 0x03 seq (q.itemType.setWidth 8 :: octetOf q.payload.length :: q.payload) := rfl

/-! ### The line in SENDING -/

/-- The bit times of an octet: start bit, data bits least significant first, stop bit (R70). -/
theorem octetLevels_getElem? (o : Octet) {i : Nat} (hi : i < 10) :
    (octetLevels o)[i]? = some (if i = 0 then false else if i = 9 then true else o.getLsbD (i - 1)) := by
  interval_cases i <;> rfl

/-- The bit times of SENDING: 20 of idle, and then those of the octets one after the other (R70, R100). -/
theorem sendingLevels_getElem? (frame : List Octet) {k : Nat} (hk : k < 20 + 10 * frame.length) :
    (sendingLevels frame)[k]? = some
      (if k < 20 then true
      else if (k - 20) % 10 = 0 then false
      else if (k - 20) % 10 = 9 then true
      else (frame.getD ((k - 20) / 10) 0).getLsbD ((k - 20) % 10 - 1)) := by
  have hidle : (List.replicate Config.idleBits true).length = 20 := List.length_replicate
  unfold sendingLevels
  by_cases h20 : k < 20
  · rw [if_pos h20, List.getElem?_append_left (hidle ▸ h20), List.getElem?_replicate]
    exact if_pos h20
  · have hoctet : (k - 20) / 10 < frame.length := by omega
    have hbit : (k - 20) % 10 < 10 := Nat.mod_lt _ (by omega)
    rw [if_neg h20, List.getElem?_append_right (by omega), hidle]
    conv_lhs => rw [← Nat.div_add_mod (k - 20) 10]
    rw [getElem?_flatMap_octetLevels frame _ _ hoctet hbit, octetLevels_getElem? _ hbit,
      List.getD_eq_getElem _ _ hoctet]

/-- A SENDING port drives the level of the bit time that its time has come to (R100). -/
theorem PortState.txHigh_of_sending {ps : PortState} {octets : List Octet} {tmo : Octet} {left k j : Nat}
    (hsending : ps.sequencer = .sending octets tmo left) (hj : j < ps.lineRate.bitTicks)
    (htime : left + (k * ps.lineRate.bitTicks + j) = sendingTicks ps.lineRate octets) :
    ps.txHigh = ((sendingLevels octets)[k]?).getD true := by
  have hpassed : (sendingTicks ps.lineRate octets - left) / ps.lineRate.bitTicks = k := by
    rw [← htime, Nat.add_sub_cancel_left, Nat.mul_comm, Nat.mul_add_div (by omega), Nat.div_eq_of_lt hj, Nat.add_zero]
  unfold PortState.txHigh
  rw [hsending]
  dsimp only
  rw [hpassed]

/-- The transmit pin is idle outside SENDING (R76). -/
theorem PortState.txHigh_of_not_sending {ps : PortState} (h : ps.isSending = false) : ps.txHigh = true := by
  unfold PortState.isSending at h
  unfold PortState.txHigh
  cases hsequencer : ps.sequencer with
  | sending octets tmo left => simp [hsequencer] at h
  | idle => rfl
  | awaiting left => rfl
  | quiet awaited left => rfl

end Sys2Proof.Machine
end

section
/-! PROOF. The statement of the frames that are sent. -/

namespace Sys2Proof.Machine

/-- Settles O45: the levels bit time by bit time, and each grant as the attempt that it starts. -/
theorem grantSendsFrame : Obligations.GrantSendsFrame := by
  intro s p ps bitTime ticks frame sending down
  have hsending : ∀ due last t octets,
      ({ ps with dueList := due, lastGrant := last } : PortState).beginning t s.tmo octets =
        sending { ps with dueList := due, lastGrant := last } t octets := fun _ _ _ _ => rfl
  have hframe : ∀ dest kind body, sentFrame dest kind ps.transmitCount body = frame dest kind body := fun _ _ _ => rfl
  refine ⟨PortState.txHigh_of_not_sending, ?levels, ?pins, ?poll, ?request, ?pollRetry, ?requestRetry⟩
  case levels =>
    intro octets tmo left k j hsequencer hj hk htime
    rw [PortState.txHigh_of_sending hsequencer hj htime, sendingLevels_getElem? octets hk]
    rfl
  case pins =>
    intro hheld
    have hpins : s.pins = _ := if_neg (by simp [hheld])
    rw [hpins]
    exact ⟨rfl, rfl, rfl, rfl⟩
  case poll =>
    intro e
    rw [State.grantPoll_eq, pollFrame_eq, hframe]
    exact congrArg _ (hsending _ _ _ _)
  case request =>
    intro q hq
    rw [State.grantRequest_eq p hq, writeFrame_eq, hframe, State.findNode_eq]
    exact congrArg _ (hsending _ _ _ _)
  case pollRetry =>
    intro t a hwork ha hmade
    have hretry : decide (1 < t.made + 1) = true := decide_eq_true (by omega)
    have hdest : t.awaited.getD 0 = a := by rw [ha]; rfl
    rw [State.startAttempt_poll hwork, hretry, hdest, pollFrame_eq, hframe]
    exact congrArg _ (hsending _ _ _ _)
  case requestRetry =>
    intro t tag itemType q hwork hq
    rw [State.startAttempt_request hwork hq, writeFrame_eq, hframe]
    exact congrArg _ (hsending _ _ _ _)

end Sys2Proof.Machine
end

section
/-! PROOF. The staged node entry by the checks of NODE_SET, and the answers of the node commands that change one entry
alone (R117, R118, R127, R130). -/

namespace Sys2Proof.Machine

/-! ### The staged node entry -/

theorem portOf_eq (v : Octet) :
    portOf v = if v.toNat > 1 then none else some (if v.toNat = 0 then .A else .B) := by
  revert v
  decide

/-- Check 3 of NODE_SET fails (R117). -/
abbrev State.BadNode (s : State) : Prop :=
  (s.stg 0).toNat > 1 ∨ (s.stg 1).toNat < 1 ∨ (s.stg 1).toNat > 62 ∨ (s.stg 2).toNat = 0 ∨ (s.stg 3).toNat > 7 ∨
    (s.stg 4).toNat < 1 ∨ (s.stg 4).toNat > 15 ∨ (s.stg 5).toNat > 1

/-- The entry that the staging area asks for (R117, R196). -/
def State.nodeFromStaging (s : State) : NodeEntry :=
  { NodeEntry.vacant with
    port := if (s.stg 0).toNat = 0 then .A else .B
    address := (s.stg 1).toNat, pollInterval := (s.stg 2).toNat, retryLimit := (s.stg 3).toNat
    absentThreshold := (s.stg 4).toNat, inhibit := decide ((s.stg 5).toNat = 1), state := .disabled }

/-- Check 3 of NODE_SET, and the entry that passes it (R117). -/
theorem State.stagedNode_eq (s : State) : s.stagedNode = if s.BadNode then none else some s.nodeFromStaging := by
  have hinterval : ((s.stg 2).toNat < 1 ∨ (s.stg 2).toNat > 255) ↔ (s.stg 2).toNat = 0 := by
    have := (s.stg 2).isLt
    omega
  simp only [State.stagedNode, yesNoOf_eq, portOf_eq, inRange_eq, bind, guarded_bind, ← ite_or, or_assoc,
    Nat.not_lt_zero, false_or, if_congr hinterval rfl rfl]
  rfl

/-- Check 4 of NODE_SET fails (R117). -/
theorem State.addressTaken_iff (s : State) (e : Nat) (p : Port) (address : Nat) :
    s.addressTaken e p address = true ↔
      ∃ i ∈ List.range 32, i ≠ e ∧ (s.node i).state ≠ .vacant ∧ (s.node i).port = p ∧ (s.node i).address = address := by
  simp only [State.addressTaken, nodeIndices, Config.nodeCount, List.any_eq_true, Bool.and_eq_true, decide_eq_true_eq,
    and_assoc]

/-- An entry owns a record (R17, R117). -/
theorem State.ownedRecords_ne_nil (s : State) (e : Nat) :
    s.ownedRecords e ≠ [] ↔ ∃ r ∈ List.range 48, ((s.record r).any fun rec => rec.entry = e) = true := by
  rw [Ne, State.ownedRecords, List.filter_eq_nil_iff]
  simp [recordIndices, Config.recordCount]

/-- Settles O18: the staging area is read by `State.stagedNode_eq`, between the checks of the entry's state and of its
address. -/
theorem nodeSetStoresEntry : Obligations.NodeSetStoresEntry := by
  intro s e old o port answer
  have hexec : exec .nodeSet s = execNodeSet s := rfl
  have hstaged : (s.taken 0x38).stagedNode = s.stagedNode := rfl
  rw [hexec, execNodeSet, hstaged, State.stagedNode_eq]
  refine congrArg Host.Outcome.next (if_congr Iff.rfl rfl (if_congr Iff.rfl rfl ?_))
  by_cases hbad : s.BadNode
  · rw [if_pos hbad]
    exact (if_pos hbad).symm
  · rw [if_neg hbad]
    refine Eq.trans ?_ (if_neg hbad).symm
    exact if_congr (State.addressTaken_iff _ _ _ _) rfl
      (if_congr (and_congr_right' (and_congr_left' (State.ownedRecords_ne_nil _ _))) rfl rfl)

/-! ### NODE_ENABLE -/

/-- An entry that is listed or being polled slips; any other joins the due list of its port (R130). -/
theorem State.fallDue_eq (s : State) (e : Nat) :
    s.fallDue e =
      if (s.node e).polled = true ∨ e ∈ (s.port (s.node e).port).dueList then
        { s with
          nodes := s.nodes.setIfInBounds e
            { s.node e with countdown := (s.node e).pollInterval, slips := min 255 ((s.node e).slips + 1) }
          sticky := s.sticky ||| eventSlip }
      else
        (({ s with
            nodes := s.nodes.setIfInBounds e { s.node e with countdown := (s.node e).pollInterval } } : State).setPort
          (s.node e).port
          { s.port (s.node e).port with dueList := (s.port (s.node e).port).dueList ++ [e] }).evaluate
          (s.node e).port := by
  unfold State.fallDue State.modPort
  simp only [State.port_setNode]
  exact if_congr (by simp) rfl rfl

/-- An entry that falls due as it is written (R118, R130). -/
theorem State.fallDue_setNode (s : State) {e : Nat} (he : e < 32) (n : NodeEntry) :
    (s.setNode e n).fallDue e =
      if n.polled = true ∨ e ∈ (s.port n.port).dueList then
        { s with
          nodes := s.nodes.setIfInBounds e { n with countdown := n.pollInterval, slips := min 255 (n.slips + 1) }
          sticky := s.sticky ||| eventSlip }
      else
        (({ s with nodes := s.nodes.setIfInBounds e { n with countdown := n.pollInterval } } : State).setPort n.port
          { s.port n.port with dueList := (s.port n.port).dueList ++ [e] }).evaluate n.port := by
  have hwritten : ∀ m, (s.setNode e n).nodes.setIfInBounds e m = s.nodes.setIfInBounds e m := fun m => by
    simp [State.setNode]
  rw [State.fallDue_eq, State.node_setNode_same _ _ he, State.port_setNode]
  simp only [hwritten]
  rfl

/-- Settles O19, by the rule of falling due on an entry as it becomes PROBING. -/
theorem nodeEnableProbes : Obligations.NodeEnableProbes := by
  intro s e n probing answer
  refine congrArg Host.Outcome.next ?_
  by_cases hout : e > 31
  · exact (if_pos hout).trans (if_pos hout).symm
  refine (if_neg hout).trans (Eq.trans (if_congr Iff.rfl rfl ?_) (if_neg hout).symm)
  by_cases hoff : (s.port n.port).link = .disabled
  · have hstopped : ¬((s.taken 0x39).port n.port).enabled = true := by
      rw [State.port_taken, PortState.enabled_iff]
      exact not_not.mpr hoff
    exact (congrArg (State.result · .ok []) (if_neg hstopped)).trans (if_pos hoff).symm
  · have hruns : ((s.taken 0x39).port n.port).enabled = true := by
      rw [State.port_taken, PortState.enabled_iff]
      exact hoff
    refine Eq.trans (congrArg (State.result · .ok []) ((if_pos hruns).trans
      (State.fallDue_setNode _ (Nat.lt_succ_of_le (Nat.le_of_not_gt hout)) probing))) (Eq.trans ?_ (if_neg hoff).symm)
    rw [State.port_taken]
    exact apply_ite (State.result · .ok []) _ _ _

/-! ### NODE_ACK -/

/-- The answer of NODE_ACK: the lowest-numbered entry whose notice flag is set, with its state (R127). -/
theorem State.result_noticeOctets (s : State) :
    s.result .ok s.noticeOctets =
      { s with
        rslt := .ok
        res :=
          match (List.range 32).find? fun i => (s.node i).notice with
          | none => #v[0xFF, 0, 0, 0, 0, 0]
          | some i =>
            #v[octetOf i,
               match (s.node i).state with
               | .vacant => 0
               | .disabled => 1
               | .probing => 2
               | .present => 3
               | .suspect => 4
               | .absent => 5,
               0, 0, 0, 0] } := by
  unfold State.noticeOctets State.firstNotice
  rw [show nodeIndices = List.range 32 from rfl]
  cases (List.range 32).find? fun i => (s.node i).notice with
  | none => rfl
  | some i => cases (s.node i).state <;> rfl

/-- Settles O22: an octet names an entry, or is FFh and names none, or is refused. -/
theorem nodeAckReportsNext : Obligations.NodeAckReportsNext := by
  intro s a cleared
  have hoctet : a < 256 := (s.arg 0).isLt
  have hanswer := fun t (ht : t = cleared) =>
    (congrArg (fun t : State => t.result .ok t.noticeOctets) ht).trans cleared.result_noticeOctets
  refine congrArg Host.Outcome.next ?_
  by_cases hnamed : a ≤ 31
  · have hcleared : (s.taken 0x3C).modNode a (fun n => { n with notice := false }) = cleared := by
      simp only [cleared, if_pos hnamed]
      rfl
    exact ((if_pos hnamed).trans (hanswer _ hcleared)).trans (if_neg (by omega)).symm
  have hcleared : s.taken 0x3C = cleared := by
    simp only [cleared, if_neg hnamed]
    rfl
  refine (if_neg hnamed).trans ?_
  by_cases hnone : a = 255
  · exact ((if_pos hnone).trans (hanswer _ hcleared)).trans (if_neg (by omega)).symm
  · exact (if_neg hnone).trans (if_pos (by omega)).symm

end Sys2Proof.Machine
end

section
/-! PROOF. The node table at an epoch mark: entries that count, slip and join the due lists (R130). -/

namespace Sys2Proof.Machine

/-! ### One entry -/

/-- The entry counts at a mark: it is enabled, on an enabled port (R130). -/
def State.counts (s : State) (e : Nat) : Bool :=
  decide ((s.node e).state ≠ .vacant ∧ (s.node e).state ≠ .disabled ∧ (s.port (s.node e).port).link ≠ .disabled)

/-- The entry's countdown reaches 0 at a mark (R130). -/
def State.reachesDue (s : State) (e : Nat) : Bool := s.counts e && decide ((s.node e).countdown ≤ 1)

/-- The entry slips at a mark: it falls due while it is listed or being polled (R130). -/
def State.slipsAtMark (s : State) (e : Nat) : Bool :=
  s.reachesDue e && ((s.node e).polled || (s.port (s.node e).port).dueList.contains e)

/-- The entry joins the due list of port `p` at a mark (R130). -/
def State.joinsAtMark (s : State) (p : Port) (e : Nat) : Bool :=
  s.reachesDue e && !s.slipsAtMark e && decide ((s.node e).port = p)

/-- The entry after a mark (R130). -/
def State.countedNode (s : State) (e : Nat) (n : NodeEntry) : NodeEntry :=
  if s.counts e = false then n
  else if s.reachesDue e = false then { n with countdown := n.countdown - 1 }
  else if s.slipsAtMark e then { n with countdown := n.pollInterval, slips := min 255 (n.slips + 1) }
  else { n with countdown := n.pollInterval }

/-- A port once the entries `l` have joined its due list (R129). -/
def PortState.listing (ps : PortState) (l : List Nat) : PortState := { ps with dueList := ps.dueList ++ l }

/-- An entry that is written as it is. -/
theorem State.setIfInBounds_node (s : State) (e : Nat) : s.nodes.setIfInBounds e (s.node e) = s.nodes :=
  Vector.ext fun i hi => by
    by_cases h : e = i
    · subst h
      simp [State.node, hi]
    · simp [h]

theorem State.countEntry_eq (s : State) (e : Nat) :
    s.countEntry e =
      if s.counts e = false then s
      else if (s.node e).countdown ≤ 1 then s.fallDue e
      else s.setNode e { s.node e with countdown := (s.node e).countdown - 1 } := by
  have hcounts : ((s.node e).state.enabled && (s.port (s.node e).port).enabled) = true ↔ ¬s.counts e = false := by
    rw [Bool.and_eq_true, NodeState.enabled_iff, PortState.enabled_iff, not_or, and_assoc, Bool.not_eq_false,
      State.counts, decide_eq_true_iff]
  unfold State.countEntry
  exact (if_congr hcounts rfl rfl).trans (ite_not _ _ _)

/-- Where no port can grant, an entry at a mark changes itself, its port's due list and the SLIP event alone. -/
theorem State.countEntry_of_busy {s : State} (hbusy : ∀ p, (s.port p).sequencer ≠ .idle) (e : Nat) :
    s.countEntry e =
      { s with
        nodes := s.nodes.setIfInBounds e (s.countedNode e (s.node e))
        portA := s.portA.listing ([e].filter (s.joinsAtMark .A))
        portB := s.portB.listing ([e].filter (s.joinsAtMark .B))
        sticky := if s.slipsAtMark e then s.sticky ||| eventSlip else s.sticky } := by
  have hresting : s.reachesDue e = false → s.slipsAtMark e = false ∧ ∀ p, s.joinsAtMark p e = false := fun h => by
    simp [State.slipsAtMark, State.joinsAtMark, h]
  rw [State.countEntry_eq]
  by_cases hcounts : s.counts e = false
  · obtain ⟨hslips, hjoins⟩ := hresting (by rw [State.reachesDue, hcounts, Bool.false_and])
    simp [State.countedNode, hcounts, hslips, hjoins, s.setIfInBounds_node, PortState.listing]
  rw [if_neg hcounts]
  by_cases hdue : (s.node e).countdown ≤ 1
  · have hreaches : s.reachesDue e = true := by simpa [State.reachesDue, hdue] using hcounts
    rw [if_pos hdue, State.fallDue_eq]
    by_cases hslip : (s.node e).polled = true ∨ e ∈ (s.port (s.node e).port).dueList
    · have hslips : s.slipsAtMark e = true := by simpa [State.slipsAtMark, hreaches] using hslip
      rw [if_pos hslip]
      simp [State.joinsAtMark, State.countedNode, hcounts, hreaches, hslips, PortState.listing]
    · have hslips : s.slipsAtMark e = false := by simpa [State.slipsAtMark, hreaches] using hslip
      rw [if_neg hslip, State.evaluate_of_off (.inr (by simpa using hbusy _))]
      cases hport : (s.node e).port <;>
        simp [State.joinsAtMark, State.countedNode, hcounts, hreaches, hslips, hport, PortState.listing,
          State.setPort, State.port]
  · have hreaches : s.reachesDue e = false := by simp [State.reachesDue, hdue]
    obtain ⟨hslips, hjoins⟩ := hresting hreaches
    rw [if_neg hdue]
    simp [State.countedNode, hcounts, hreaches, hslips, hjoins, PortState.listing, State.setNode]

/-! ### The entries in their order -/

/-- The state once the first `k` entries have been through a mark at which no port can grant. -/
def State.countedTo (s : State) (k : Nat) : State :=
  { s with
    nodes := s.nodes.mapIdx fun e n => if e < k then s.countedNode e n else n
    portA := s.portA.listing ((List.range k).filter (s.joinsAtMark .A))
    portB := s.portB.listing ((List.range k).filter (s.joinsAtMark .B))
    sticky := if ∃ e ∈ List.range k, s.slipsAtMark e = true then s.sticky ||| eventSlip else s.sticky }

theorem State.node_countedTo {s : State} {k e : Nat} (h : k ≤ e) : (s.countedTo k).node e = s.node e := by
  have : ¬e < k := by omega
  by_cases he : e < 32
  · simp [State.node, State.countedTo, he, this]
  · rw [State.node_of_le _ (by omega), State.node_of_le _ (by omega)]

theorem State.port_countedTo (s : State) (k : Nat) (p : Port) :
    (s.countedTo k).port p = (s.port p).listing ((List.range k).filter (s.joinsAtMark p)) := by
  cases p <;> rfl

/-- The entries before an entry at a mark have no part in what it does: those that joined a due list are others. -/
theorem State.atMark_countedTo (s : State) (k : Nat) :
    (s.countedTo k).counts k = s.counts k ∧ (s.countedTo k).reachesDue k = s.reachesDue k ∧
      (s.countedTo k).slipsAtMark k = s.slipsAtMark k ∧
      ∀ p, (s.countedTo k).joinsAtMark p k = s.joinsAtMark p k := by
  have hnode : (s.countedTo k).node k = s.node k := State.node_countedTo le_rfl
  have hlisted : ∀ p, ((s.countedTo k).port p).dueList.contains k = (s.port p).dueList.contains k := fun p => by
    rw [State.port_countedTo, Bool.eq_iff_iff]
    simp [PortState.listing]
  have hcounts : (s.countedTo k).counts k = s.counts k := by
    rw [State.counts, hnode, State.port_countedTo]
    rfl
  have hreaches : (s.countedTo k).reachesDue k = s.reachesDue k := by
    rw [State.reachesDue, hcounts, hnode]
    rfl
  have hslips : (s.countedTo k).slipsAtMark k = s.slipsAtMark k := by
    rw [State.slipsAtMark, hreaches, hnode, hlisted]
    rfl
  refine ⟨hcounts, hreaches, hslips, fun p => ?_⟩
  rw [State.joinsAtMark, hreaches, hslips, hnode]
  rfl

theorem State.countedTo_zero (s : State) : s.countedTo 0 = s := by
  simp [State.countedTo, PortState.listing, mapIdx_snd]

theorem State.countedTo_succ (s : State) (k : Nat) :
    { s.countedTo k with
      nodes := (s.countedTo k).nodes.setIfInBounds k (s.countedNode k (s.node k))
      portA := (s.countedTo k).portA.listing ([k].filter (s.joinsAtMark .A))
      portB := (s.countedTo k).portB.listing ([k].filter (s.joinsAtMark .B))
      sticky := if s.slipsAtMark k then (s.countedTo k).sticky ||| eventSlip else (s.countedTo k).sticky } =
    s.countedTo (k + 1) := by
  have hnodes : (s.countedTo k).nodes.setIfInBounds k (s.countedNode k (s.node k)) = (s.countedTo (k + 1)).nodes := by
    refine Vector.ext fun e he => ?_
    rcases Nat.lt_trichotomy e k with h | rfl | h
    · simp [State.countedTo, h, Nat.ne_of_gt h, Nat.le_of_lt h]
    · simp [State.countedTo, State.node, he]
    · simp [State.countedTo, Nat.not_lt_of_gt h, Nat.ne_of_lt h, Nat.not_le_of_gt h]
  have hport : ∀ (ps : PortState) p,
      (ps.listing ((List.range k).filter (s.joinsAtMark p))).listing ([k].filter (s.joinsAtMark p)) =
        ps.listing ((List.range (k + 1)).filter (s.joinsAtMark p)) := fun ps p => by
    simp [PortState.listing, List.range_succ]
  have hsticky : (if s.slipsAtMark k then (s.countedTo k).sticky ||| eventSlip else (s.countedTo k).sticky) =
      (s.countedTo (k + 1)).sticky := by
    have hall : (∃ e ∈ List.range (k + 1), s.slipsAtMark e = true) ↔
        (∃ e ∈ List.range k, s.slipsAtMark e = true) ∨ s.slipsAtMark k = true := by
      simp only [List.range_succ, List.mem_append, List.mem_singleton, or_and_right, exists_or, exists_eq_left]
    simp only [State.countedTo, hall]
    by_cases hbefore : ∃ e ∈ List.range k, s.slipsAtMark e = true
    · simp only [if_pos hbefore, if_pos (Or.inl hbefore : _ ∨ s.slipsAtMark k = true), BitVec.or_assoc, BitVec.or_self,
        ite_self]
    · rw [if_neg hbefore]
      exact if_congr (or_iff_right hbefore).symm rfl rfl
  rw [hnodes, hsticky]
  simp only [State.countedTo, hport]

/-- The node table at a mark at which no port can grant (R130). -/
theorem foldl_countEntry_of_busy {s : State} (hbusy : ∀ p, (s.port p).sequencer ≠ .idle) (k : Nat) :
    (List.range k).foldl State.countEntry s = s.countedTo k := by
  induction k with
  | zero => exact s.countedTo_zero.symm
  | succ k ih =>
    have hbusy' : ∀ p, ((s.countedTo k).port p).sequencer ≠ .idle := fun p => by
      rw [State.port_countedTo]
      exact hbusy p
    obtain ⟨hcounts, hreaches, hslips, hjoins⟩ := s.atMark_countedTo k
    have hnode : (s.countedTo k).countedNode k ((s.countedTo k).node k) = s.countedNode k (s.node k) := by
      rw [State.countedNode, hcounts, hreaches, hslips, State.node_countedTo le_rfl]
      rfl
    rw [List.range_succ, List.foldl_append, ih, List.foldl_cons, List.foldl_nil, State.countEntry_of_busy hbusy', hnode,
      hslips, ← State.countedTo_succ]
    simp only [List.filter_singleton, hjoins]

theorem State.takeMark_nodeTable {s : State} (h : MarkBlock.nodeTable ∈ s.marks) :
    s.takeMark .nodeTable =
      (List.range 32).foldl State.countEntry { s with marks := s.marks.erase .nodeTable } := by
  unfold State.takeMark State.deliver
  rw [if_neg (by decide), if_pos (by simpa using h)]
  rfl

/-- Settles O49: the rule of falling due, the entries one after the other, and where no port can grant their fold. -/
theorem countdownsReachDue : Obligations.CountdownsReachDue := by
  refine ⟨fun s e => s.fallDue_eq e, fun s hmark => ?_⟩
  intro taken counts
  refine ⟨?fold, fun hbusy => ?busy⟩
  case fold =>
    refine congrArg Host.Outcome.next ((State.takeMark_nodeTable hmark).trans ?_)
    exact congrArg (fun f => List.foldl f taken _) (funext fun t => funext t.countEntry_eq)
  case busy =>
    intro due slips joins
    refine congrArg Host.Outcome.next ((State.takeMark_nodeTable hmark).trans ?_)
    have hbusy' : ∀ p, (taken.port p).sequencer ≠ .idle := fun p => by
      cases p
      · exact hbusy .A
      · exact hbusy .B
    refine (foldl_countEntry_of_busy (s := taken) hbusy' 32).trans ?_
    have hnodes : (taken.countedTo 32).nodes = s.nodes.mapIdx taken.countedNode :=
      Vector.ext fun e he => by simp [State.countedTo, he, taken]
    calc taken.countedTo 32 = { taken.countedTo 32 with nodes := s.nodes.mapIdx taken.countedNode } := by rw [← hnodes]
      _ = _ := rfl

end Sys2Proof.Machine
end

section
/-! PROOF. What the notice of one entry, a miss and an answer do (R16, R121, R122, R123, R126). -/

namespace Sys2Proof.Machine

/-! ### The notice of one entry -/

/-- A record that the notice of entry `e` makes ORPHAN (R16). -/
def Record.orphanedBy (rec : Record) (e : Nat) : Bool := decide (rec.entry = e ∧ rec.state ≠ .orphan)

/-- Record `r` sends the notice ORPHAN where entry `e` gives its node notice. -/
def State.toldBy (s : State) (e r : Nat) : Bool :=
  (s.record r).any fun rec => rec.orphanedBy e && decide (rec.policy ≠ .silent)

/-- The table and the change queue once the records of entry `e` are ORPHAN, with DATA_STALE still to be reported. -/
def State.orphaned (s : State) (e : Nat) : State :=
  { s with
    records := s.records.map fun x => x.map fun rec =>
      if rec.orphanedBy e then { rec with state := .orphan, queued := rec.queued || decide (rec.policy ≠ .silent) }
      else rec
    queue :=
      (s.queue.map fun q =>
        if s.toldBy e q.record && s.isQueued q.record then { q with causes := q.causes ||| 0x10 } else q) ++
      ((List.range 48).filter fun r => s.toldBy e r && !s.isQueued r).map (fun r => ⟨r, 0x10⟩) }

theorem State.orphanTable_ownedRecords (s : State) (e : Nat) : s.orphanTable (s.ownedRecords e) = s.orphaned e := by
  have hlost : ∀ rec : Record, rec.lost [e] = rec.orphanedBy e := fun rec => by
    rw [Bool.eq_iff_iff]
    simp [Record.lost, Record.orphanedBy]
  have htold : ∀ r, s.toldOf [e] r = s.toldBy e r := fun r => by
    unfold State.toldOf State.toldBy
    simp only [hlost]
  have hsingle : [e].flatMap s.ownedRecords = s.ownedRecords e := List.flatMap_singleton _ _
  have hrecords := s.records_orphanTable_owned [e]
  have hqueue := s.queue_orphanTable_owned [e]
  have hjoin : ((List.range 48).filter fun r =>
      s.toldBy e r && !s.isQueued r && (s.record r).any fun rec => decide (rec.entry = e)) =
      (List.range 48).filter fun r => s.toldBy e r && !s.isQueued r := by
    refine List.filter_congr fun r _ => ?_
    unfold State.toldBy Record.orphanedBy
    cases s.record r with
    | none => rfl
    | some rec => by_cases he : rec.entry = e <;> simp [he]
  simp only [hsingle, hlost, htold, List.flatMap_singleton, hjoin] at hrecords hqueue
  calc s.orphanTable (s.ownedRecords e)
    _ = { s with
          records := (s.orphanTable (s.ownedRecords e)).records
          queue := (s.orphanTable (s.ownedRecords e)).queue } := rfl
    _ = s.orphaned e := by rw [hrecords, hqueue]; rfl

/-- A node notice: the records of the entry are ORPHAN, and DATA_STALE is re-evaluated once (R16). -/
theorem State.nodeNotice_orphaned (s : State) (e : Nat) :
    s.nodeNotice e = (s.orphaned e).setCondition .dataStale (s.orphaned e).dataStaleLevel := by
  rw [State.nodeNotice_eq, State.orphanTable_ownedRecords]

/-- A node notice has no part in the ports. -/
theorem State.orphaned_setPort (s : State) (p : Port) (x : PortState) (e : Nat) :
    (s.setPort p x).orphaned e = (s.orphaned e).setPort p x := by
  cases p <;> rfl

theorem State.setNode_setPort (s : State) (p : Port) (x : PortState) (e : Nat) (n : NodeEntry) :
    (s.setPort p x).setNode e n = (s.setNode e n).setPort p x := by
  cases p <;> rfl

/-! ### A change of state among the enabled ones -/

/-- An entry that is written, with its notice flag and the NODE event unless its state stands (R126). -/
theorem State.setNode_nodeChanged (s : State) {e : Nat} (he : e < 32) (n : NodeEntry) (c : Prop) [Decidable c] :
    (if c then s.setNode e n else (s.setNode e n).nodeChanged e) =
      { s with
        nodes := s.nodes.setIfInBounds e { n with notice := n.notice || decide (¬c) }
        sticky := if c then s.sticky else s.sticky ||| eventNode } := by
  by_cases h : c
  · simp [h, State.setNode]
  · unfold State.nodeChanged State.modNode
    rw [State.node_setNode_same _ _ he]
    simp [h, State.setNode, State.raise]

/-- The state after a miss, by its miss count (R123). -/
theorem NodeEntry.afterMiss_eq (n : NodeEntry) :
    n.afterMiss (min n.absentThreshold (n.missCount + 1)) =
      if min n.absentThreshold (n.missCount + 1) = n.absentThreshold then .absent
      else if n.state = .present then .suspect
      else n.state := by
  unfold NodeEntry.afterMiss
  exact if_congr (by omega) rfl rfl

/-- The entry and the events after a miss that leaves the entry in state `next` (R123, R126). -/
def State.missed (s : State) (e : Nat) (next : NodeState) : State :=
  let n := s.node e
  { s with
    nodes := s.nodes.setIfInBounds e
      { n with
        polled := false, missCount := min n.absentThreshold (n.missCount + 1), state := next
        notice := n.notice || decide (next ≠ n.state) }
    sticky := if next = n.state then s.sticky else s.sticky ||| eventNode }

/-- A miss: an entry that becomes ABSENT gives its node notice, and NODE_LOST is reported where the entry counts
(R16, R123, R133). -/
theorem State.nodeMiss_eq (s : State) {e : Nat} (he : e < 32) {next : NodeState}
    (hnext : (s.node e).afterMiss (min (s.node e).absentThreshold ((s.node e).missCount + 1)) = next) :
    s.nodeMiss e =
      if next = (s.node e).state ∨ next ≠ .absent then s.missed e next
      else
        let gone := (s.missed e next).nodeNotice e
        if (s.node e).inhibit then gone.setCondition .nodeLost gone.nodeLostLevel else gone := by
  have hmissed : _ = s.missed e next := s.setNode_nodeChanged he
    { s.node e with
      polled := false, missCount := min (s.node e).absentThreshold ((s.node e).missCount + 1), state := next }
    (next = (s.node e).state)
  unfold State.nodeMiss
  dsimp only
  rw [hnext]
  by_cases hsame : next = (s.node e).state
  · rw [if_pos hsame] at hmissed
    rw [if_pos hsame, if_pos (.inl hsame), ← hmissed]
  rw [if_neg hsame] at hmissed
  by_cases habsent : next = .absent
  · have hgone : ¬(next = (s.node e).state ∨ next ≠ .absent) := not_or.mpr ⟨hsame, not_not.mpr habsent⟩
    rw [if_neg hsame, if_pos habsent, if_neg hgone, ← hmissed]
  · rw [if_neg hsame, if_neg habsent, if_pos (.inr habsent), ← hmissed]

/-! ### An answer -/

/-- What the sequence check makes of a DATA frame at an entry, and the items of a frame that it takes (R60, R122). -/
theorem State.checkSequence_items (s : State) (e : Nat) (seq : Octet) (items : List Item) (n : NodeEntry) :
    (let checked := n.checkSequence seq
     let t := s.setNode e checked.1
     if checked.2 then items.foldl (State.takeItem e seq) t else t) =
      match n.lastSequence with
      | none => items.foldl (State.takeItem e seq) (s.setNode e { n with lastSequence := some seq })
      | some last =>
        if seq = last then s.setNode e { n with duplicates := min 255 (n.duplicates + 1) }
        else if seq = last + 1 then
          items.foldl (State.takeItem e seq) (s.setNode e { n with lastSequence := some seq })
        else
          items.foldl (State.takeItem e seq)
            (s.setNode e { n with lastSequence := some seq, gaps := min 255 (n.gaps + 1) }) := by
  unfold NodeEntry.checkSequence
  cases n.lastSequence with
  | none => rfl
  | some last =>
    dsimp only
    split
    · rfl
    · split <;> rfl

/-- The entry and the events once a polled entry has answered (R121, R126). -/
def State.answered (s : State) (e : Nat) : State :=
  let n := s.node e
  { s with
    nodes := s.nodes.setIfInBounds e
      { n with
        polled := false, missCount := 0, state := .present, notice := n.notice || decide (n.state ≠ .present) }
    sticky := if n.state = .present then s.sticky else s.sticky ||| eventNode }

/-- A successful outcome: the entry answers, NODE_LOST is reported where it was counted as ABSENT, and the frame goes
through the sequence check (R121, R122, R133). -/
theorem State.nodeSuccess_eq (s : State) {e : Nat} (he : e < 32) (seq : Octet) (items : List Item) :
    s.nodeSuccess e seq items =
      let known :=
        if (s.node e).state = .absent ∧ (s.node e).inhibit = true then (s.answered e).reportNodeLost else s.answered e
      let checked := (known.node e).checkSequence seq
      let t := known.setNode e checked.1
      if checked.2 then items.foldl (State.takeItem e seq) t else t := by
  have hanswered : _ = s.answered e := s.setNode_nodeChanged he
    { s.node e with polled := false, missCount := 0, state := .present } ((s.node e).state = .present)
  unfold State.nodeSuccess
  dsimp only at hanswered ⊢
  rw [hanswered]

end Sys2Proof.Machine
end

section
/-! PROOF. The statements of an entry that is disabled, that misses and that answers. -/

namespace Sys2Proof.Machine

/-- Settles O20: the notice of the entry (`State.nodeNotice_orphaned`) on the state in which it is DISABLED and its port
has lost it. -/
theorem nodeDisableOrphans : Obligations.NodeDisableOrphans := by
  intro s e n lost told queued port off₀ off noticed
  refine congrArg Host.Outcome.next (if_congr Iff.rfl rfl ?_)
  have henabled : ((s.taken 0x3A).node e).state.enabled = true ↔ ¬(n.state = .vacant ∨ n.state = .disabled) :=
    NodeState.enabled_iff _
  refine (if_congr henabled ?_ rfl).trans (ite_not _ _ _)
  have hnoticed : (((s.taken 0x3A).modPort n.port fun ps => ps.loseEntry e).setNode e
      { n with polled := false, state := .disabled }).nodeNotice e = noticed := by
    rw [State.nodeNotice_orphaned, State.modPort, State.setNode_setPort, State.orphaned_setPort, State.port_taken]
    rfl
  refine congrArg (State.result · .ok []) (if_congr Iff.rfl ?_ hnoticed)
  exact congrArg State.reportNodeLost hnoticed

/-- Settles O42, by what the transaction serves; a miss is `State.nodeMiss_eq`. -/
theorem failedOutcomeReported : Obligations.FailedOutcomeReported := by
  intro s p t ended
  refine ⟨fun tag itemType hwork => ?request, fun hwork hgone => ?gone, fun e hwork he hkept => ?poll⟩
  case request =>
    have hpool : (s.dropTransaction p).requestOf tag = s.requests.find? fun q : Request => q.tag = tag := by
      cases p <;> rfl
    unfold State.reportFailed
    rw [hwork]
    dsimp only
    rw [hpool]
    cases s.requests.find? fun q : Request => q.tag = tag with
    | none => rfl
    | some q => cases p <;> rfl
  case gone =>
    unfold State.reportFailed
    rw [hwork]
    rcases hgone with h | h
    · rw [h]
      rfl
    · rw [h]
      cases t.entry <;> rfl
  case poll =>
    intro n misses next lost told queued missed
    have hreported : s.reportFailed p t = ended.pollFailed e t.firstInDown := by
      unfold State.reportFailed
      rw [hwork, he, hkept]
      rfl
    rw [hreported]
    refine ⟨fun hdown => ?down, fun hup h32 => ?miss⟩
    case down =>
      rw [hdown]
      cases p <;> rfl
    case miss =>
      have hnext : (ended.node e).afterMiss
          (min (ended.node e).absentThreshold ((ended.node e).missCount + 1)) = next := by
        rw [State.node_setPort]
        exact n.afterMiss_eq
      rw [hup]
      refine (State.nodeMiss_eq ended h32 hnext).trans ?_
      rw [State.nodeNotice_orphaned]
      clear_value next
      cases p <;> rfl

/-- Settles O38: the outcome of a detached cycle goes to its port, and any other to its entry by
`State.nodeSuccess_eq`. -/
theorem pollReplyTaken : Obligations.PollReplyTaken := by
  intro s p t e left f items hheard htransaction hsequencer hwork he h32 hawaited hbody n present ended
  have htaken : s.frameHandedOn p (.awaiting left) f = s.pollReplied p t f.sequence items := by
    unfold State.frameHandedOn
    rw [htransaction]
    refine (if_pos hawaited).trans ?_
    rw [hwork, hbody]
  have hended : s.dropTransaction p = ended := rfl
  rw [htaken]
  unfold State.pollReplied
  rw [State.silenceUpdate_of_heard hheard, he, hended]
  by_cases hlost : t.entryLost = true
  · refine Eq.trans (congrArg (State.enterQuiet · p t.awaited) (if_pos hlost)) (Eq.trans ?_ (if_pos hlost).symm)
    cases p <;> rfl
  · refine Eq.trans (congrArg (State.enterQuiet · p t.awaited) ((if_neg hlost).trans
      ((ended.nodeSuccess_eq h32 f.sequence items).trans (State.checkSequence_items _ _ _ _ _))))
      (Eq.trans ?_ (if_neg hlost).symm)
    cases p <;> rfl

end Sys2Proof.Machine
end

section
/-! PROOF. The records of a removed entry, freed one after the other with their reports (R17, R18, R24, R120). -/

namespace Sys2Proof.Machine

/-! ### The records that go -/

/-- The in-use records, by their indices. -/
theorem State.mem_records (s : State) (rec : Record) : some rec ∈ s.records ↔ ∃ r, s.record r = some rec := by
  rw [Vector.mem_iff_getElem]
  constructor
  · rintro ⟨r, hr, h⟩
    exact ⟨r, (s.record_eq_getElem hr).trans h⟩
  · rintro ⟨r, h⟩
    have hr := s.record_some_lt h
    exact ⟨r, hr, (s.record_eq_getElem hr).symm.trans h⟩

/-- The held check of NODE_REMOVE (R17, R120). -/
theorem State.ownsHeld_iff (s : State) (e : Nat) :
    s.ownsHeld e = true ↔ ∃ rec, some rec ∈ s.records ∧ rec.entry = e ∧ rec.held = true := by
  simp only [State.ownsHeld, List.any_eq_true, State.mem_ownedRecords, State.mem_records, Option.any_eq_true]
  constructor
  · rintro ⟨r, ⟨rec, hrec, he⟩, rec', hrec', hheld⟩
    rw [hrec] at hrec'
    cases hrec'
    exact ⟨rec, ⟨r, hrec⟩, he, hheld⟩
  · rintro ⟨rec, ⟨r, hrec⟩, he, hheld⟩
    exact ⟨r, ⟨rec, hrec, he⟩, rec, hrec, hheld⟩

/-- The table and the change queue without the records of entry `e` (R17, R18). -/
def State.disowned (s : State) (e : Nat) : State :=
  { s with
    records := s.records.map fun x => x.filter fun rec => decide (rec.entry ≠ e)
    queue := s.queue.filter fun q => !(s.record q.record).any fun rec => decide (rec.entry = e) }

/-- The records of the entry freed one after the other (R18). -/
theorem State.foldl_freeRecord_ownedRecords (s : State) (e : Nat) :
    (s.ownedRecords e).foldl State.freeRecord s = s.disowned e := by
  have howned : ∀ r, r ∈ s.ownedRecords e ↔ (s.record r).any (fun rec => decide (rec.entry = e)) = true := fun r => by
    rw [s.mem_ownedRecords, Option.any_eq_true]
    simp only [decide_eq_true_iff]
  have hrecords : ((s.ownedRecords e).foldl State.freeRecord s).records = (s.disowned e).records := by
    refine State.records_ext fun r hr => ?_
    have hnew : (s.disowned e).record r = (s.record r).filter fun rec => decide (rec.entry ≠ e) := by
      rw [State.record_eq_getElem _ hr, State.record_eq_getElem _ hr]
      simp [State.disowned]
    rw [record_foldl_free, hnew]
    simp only [howned]
    cases s.record r with
    | none => rfl
    | some rec => by_cases he : rec.entry = e <;> simp [Option.filter, he]
  have hqueue : s.queue.filter (fun q => decide (q.record ∉ s.ownedRecords e)) = (s.disowned e).queue := by
    refine List.filter_congr fun q _ => ?_
    simp only [howned]
    cases (s.record q.record).any fun rec => decide (rec.entry = e) <;> rfl
  rw [foldl_freeRecord, hrecords, hqueue]
  rfl

/-! ### In every case -/

theorem SameTables.freeRecord {s t : State} (h : SameTables s t) (r : Nat) :
    SameTables (s.freeRecord r) (t.freeRecord r) where
  rest := congrArg (State.freeRecord · r) h.rest
  node := h.node

/-- What reports start at the arbiters while records are freed leaves the records and the change queue to the freeing
alone (R18, R96). -/
theorem sameTables_foldl_freeReporting (l : List Nat) {s : State} (h : PortsOk s) :
    SameTables (l.foldl State.freeRecord s) (l.foldl State.freeReporting s) ∧
      PortsOk (l.foldl State.freeReporting s) := by
  induction l using List.reverseRecOn with
  | nil => exact ⟨SameTables.refl s, h⟩
  | append_singleton l r ih =>
    obtain ⟨htables, hports⟩ := ih
    rw [List.foldl_append, List.foldl_append]
    have hfreed := htables.freeRecord r
    have hports' : PortsOk ((l.foldl State.freeReporting s).freeRecord r) := fun p =>
      (State.port_freeRecord _ r p).symm ▸ hports p
    show SameTables _ (State.freeReporting _ r) ∧ PortsOk (State.freeReporting _ r)
    unfold State.freeReporting
    split
    · exact ⟨hfreed.trans (SameTables.report hports' _ _), portsOk_report _ _ hports'⟩
    · exact ⟨hfreed, hports'⟩

/-! ### Where a fall of INH starts no arbiter -/

theorem State.inhSettle_freeRecord (s : State) (r : Nat) (n : Octet) :
    (s.freeRecord r).inhSettle n = (s.inhSettle n).freeRecord r := by
  unfold State.inhSettle State.inhAssert State.releaseDecision
  have hinh : (s.freeRecord r).inh = s.inh := rfl
  simp only [hinh]
  split
  · split <;> rfl
  · split
    · split
      · rfl
      · split <;> rfl
    · rfl

/-- A report to the inhibit unit and the freeing of a record leave each other's part of the state alone. -/
theorem State.setCondition_freeRecord (s : State) (r : Nat) (c : Condition) (on : Bool) :
    (s.freeRecord r).setCondition c on = (s.setCondition c on).freeRecord r := by
  have hset : ∀ (active n : Octet),
      ({ s.freeRecord r with inh := { s.inh with active := active } } : State).inhSettle n =
        (({ s with inh := { s.inh with active := active } } : State).inhSettle n).freeRecord r := fun _ n =>
    State.inhSettle_freeRecord { s with inh := _ } r n
  unfold State.setCondition
  rw [show (s.freeRecord r).inh = s.inh from rfl]
  split
  · rfl
  · split
    · exact hset _ _
    · exact hset _ _

/-- A record that does not count toward DATA_STALE is freed without a change of its level (R24). -/
theorem State.dataStaleLevel_freeRecord {s : State} {r : Nat} (h : (s.record r).any Record.untrusted = false) :
    (s.freeRecord r).dataStaleLevel = s.dataStaleLevel := by
  have hrec : ∀ r', (s.freeRecord r).record r' = if r' = r then none else s.record r' := fun r' => by
    simpa using record_foldl_free [r] s r'
  rw [Bool.eq_iff_iff, State.dataStaleLevel_iff, State.dataStaleLevel_iff]
  constructor
  · rintro ⟨r', rec, hr', hcounts⟩
    rw [hrec] at hr'
    split at hr'
    · cases hr'
    · exact ⟨r', rec, hr', hcounts⟩
  · rintro ⟨r', rec, hr', hcounts⟩
    have hne : r' ≠ r := by
      rintro rfl
      simp [hr', hcounts] at h
    exact ⟨r', rec, by rw [hrec, if_neg hne, hr'], hcounts⟩

theorem State.noneGated_freed {s : State} (h : s.noneGated) (l : List Nat) :
    (l.foldl State.freeRecord s).noneGated := by
  rw [foldl_freeRecord]
  intro p
  cases p
  · exact h .A
  · exact h .B

/-- The records freed one after the other, where a fall of INH starts no arbiter and the level of DATA_STALE stands as
reported: it falls with the last record that counts, and is reported then. -/
theorem foldl_freeReporting_of_noneGated {s : State} (hgated : s.noneGated)
    (hlevel : s.inh.isActive .dataStale = s.dataStaleLevel) (l : List Nat) :
    l.foldl State.freeReporting s =
      (l.foldl State.freeRecord s).setCondition .dataStale (l.foldl State.freeRecord s).dataStaleLevel := by
  induction l using List.reverseRecOn with
  | nil => exact ((congrArg (s.setCondition .dataStale) hlevel).symm.trans (s.setCondition_same _)).symm
  | append_singleton l r ih =>
    have hnone := State.noneGated_freed hgated (l ++ [r])
    have hbefore : ∀ r' rec, (l.foldl State.freeRecord s).record r' = some rec → s.record r' = some rec :=
      fun r' rec h => by
        rw [record_foldl_free] at h
        split at h
        · cases h
        · exact h
    have hinh : (l.foldl State.freeRecord s).inh = s.inh := by rw [foldl_freeRecord]
    rw [List.foldl_append, List.foldl_cons, List.foldl_nil] at hnone ⊢
    rw [List.foldl_append, List.foldl_cons, List.foldl_nil, ih]
    generalize l.foldl State.freeRecord s = u at hnone hbefore hinh ⊢
    obtain ⟨w, k, hset⟩ := u.setCondition_eq .dataStale u.dataStaleLevel
    have hrec : (u.setCondition .dataStale u.dataStaleLevel).record r = u.record r := by rw [hset]; rfl
    unfold State.freeReporting
    rw [hrec]
    cases hcounts : (u.record r).any Record.untrusted with
    | false =>
      rw [if_neg (by decide), State.dataStaleLevel_freeRecord hcounts]
      exact (u.setCondition_freeRecord r _ _).symm
    | true =>
      obtain ⟨rec, hr, hcounts⟩ := (Option.any_eq_true _ _).mp hcounts
      have hsame : u.setCondition .dataStale u.dataStaleLevel = u := by
        have hold : s.dataStaleLevel = true := s.dataStaleLevel_iff.mpr ⟨r, rec, hbefore r rec hr, hcounts⟩
        have hnow : u.dataStaleLevel = true := u.dataStaleLevel_iff.mpr ⟨r, rec, hr, hcounts⟩
        have hactive : u.inh.isActive .dataStale = u.dataStaleLevel := by rw [hinh, hlevel, hold, hnow]
        rw [← hactive, State.setCondition_same]
      rw [if_pos rfl, hsame, State.reportDataStale, State.report_of_noneGated hnone]

end Sys2Proof.Machine
end

section
/-! PROOF. The statement of an entry that is removed. -/

namespace Sys2Proof.Machine

/-- Settles O21: the checks in their order; then the records of the entry are freed one after the other, which leaves
the tables as one freeing does (`sameTables_foldl_freeReporting`), and where a fall of INH starts no arbiter makes one
report (`foldl_freeReporting_of_noneGated`). -/
theorem nodeRemoveFreesRecords : Obligations.NodeRemoveFreesRecords := by
  intro s e owned count answer freed freeOne all
  have hexec : exec .nodeRemove s = execNodeRemove s := rfl
  have hfreed : ((s.taken 0x3B).ownedRecords e).foldl State.freeRecord (s.taken 0x3B) = freed :=
    State.foldl_freeRecord_ownedRecords _ e
  rw [hexec]
  refine ⟨fun hout => congrArg Host.Outcome.next (if_pos hout), fun hin hstate => ?enabled,
    fun hin hstate hports => ?disabled⟩
  case enabled => exact congrArg Host.Outcome.next ((if_neg (Nat.not_lt.mpr hin)).trans (if_pos hstate))
  case disabled =>
    have hall : ((s.taken 0x3B).ownedRecords e).foldl State.freeReporting (s.taken 0x3B) = all := rfl
    have hchecks : execNodeRemove s = .next
        (if (s.taken 0x3B).ownsHeld e then answer .held
        else (all.setNode e NodeEntry.vacant).result .ok [octetOf count]) := by
      rw [← hall]
      exact congrArg Host.Outcome.next ((if_neg (Nat.not_lt.mpr hin)).trans (if_neg (not_not.mpr hstate)))
    have hheldIff := (s.taken 0x3B).ownsHeld_iff e
    refine ⟨fun hheld => ?held, fun hfree => ?removed⟩
    case held => exact hchecks.trans (congrArg Host.Outcome.next (if_pos (hheldIff.mpr hheld)))
    case removed =>
      have hnone : ¬(s.taken 0x3B).ownsHeld e = true := fun h => by
        obtain ⟨rec, hrec, he, hheld⟩ := hheldIff.mp h
        rw [hfree rec hrec he] at hheld
        cases hheld
      have heach := hchecks.trans (congrArg Host.Outcome.next (if_neg hnone))
      refine ⟨heach, ?tables, fun hgated hlevel => ?once⟩
      case tables =>
        refine ⟨_, heach, ?_, all.node_setNode_same NodeEntry.vacant (Nat.lt_succ_of_le hin)⟩
        have hports' : PortsOk (s.taken 0x3B) := fun p => (s.port_taken 0x3B p).symm ▸ hports p
        have htables := (sameTables_foldl_freeReporting ((s.taken 0x3B).ownedRecords e) hports').1.rest
        rw [hall, hfreed] at htables
        exact congrArg (fun u : State =>
          { u with
            rslt := .ok
            res := #v[octetOf count, 0, 0, 0, 0, 0]
            nodes := all.nodes.setIfInBounds e NodeEntry.vacant }) htables
      case once =>
        have hgated' : (s.taken 0x3B).noneGated := fun p => (s.port_taken 0x3B p).symm ▸ hgated p
        have honce := foldl_freeReporting_of_noneGated hgated' hlevel ((s.taken 0x3B).ownedRecords e)
        obtain ⟨w, k, hset⟩ := freed.setCondition_eq .dataStale freed.dataStaleLevel
        have hnodes : (freed.setCondition .dataStale freed.dataStaleLevel).nodes = s.nodes := by rw [hset]
        rw [hall, hfreed] at honce
        rw [heach, honce, State.setNode, hnodes]
        rfl

end Sys2Proof.Machine
end

section
/-! PROOF. The request that the staging area asks for, and the deadlines of the pool at an epoch mark (R137, R139, R143,
R148). -/

namespace Sys2Proof.Machine

/-! ### The staged request -/

/-- The first check of SUBMIT fails at a field of the staging area (R139). -/
abbrev State.BadRequest (s : State) : Prop :=
  (s.stg 1).toNat > 1 ∨ (s.stg 2).toNat < 1 ∨ (s.stg 2).toNat > 63 ∨ (s.stg 3).toNat < 1 ∨ (s.stg 3).toNat > 127 ∨
    (s.stg 4).toNat > 24 ∨ (s.stg 5).toNat > 7 ∨ (s.stg 7).toNat > 1

/-- The request that the staging area asks for (R137, R196). -/
def State.requestFromStaging (s : State) : Request :=
  { tag := s.stg 0, port := if (s.stg 1).toNat = 0 then .A else .B, address := (s.stg 2).toNat
    itemType := (s.stg 3).truncate 7, payload := (List.range (s.stg 4).toNat).map fun k => s.stg (8 + k)
    retryCount := (s.stg 5).toNat, deadline := (s.stg 6).toNat, gated := decide ((s.stg 7).toNat = 1)
    state := .waiting, abortPending := false, attempts := 0 }

/-- The staged payload starts at octet 8 (R196). -/
theorem State.take_drop_staging (s : State) {n : Nat} (h : n ≤ 24) :
    (s.staging.toList.drop 8).take n = (List.range n).map fun k => s.stg (8 + k) := by
  refine List.ext_getElem (by simpa using h) fun k hk hk' => ?_
  have hlt : 8 + k < 32 := by
    rw [List.length_map, List.length_range] at hk'
    omega
  simp [State.stg, hlt]

/-- The ranges of SUBMIT's first check, and the request that passes them (R139). -/
theorem State.stagedRequest_eq (s : State) :
    s.stagedRequest = if s.BadRequest then none else some s.requestFromStaging := by
  simp only [State.stagedRequest, yesNoOf_eq, portOf_eq, inRange_eq, bind, guarded_bind, ← ite_or, or_assoc,
    Nat.not_lt_zero, false_or]
  by_cases hbad : s.BadRequest
  · rw [if_pos hbad, if_pos hbad]
  · have hlength : (s.stg 4).toNat ≤ 24 := by
      unfold State.BadRequest at hbad
      omega
    rw [if_neg hbad, if_neg hbad, s.take_drop_staging hlength, BitVec.ofNat_toNat]
    rfl

/-- No entry stands at a port and an address (R98, R139). -/
theorem State.findNode_isNone (s : State) (p : Port) (address : Nat) :
    (s.findNode p address).isNone = true ↔
      ¬∃ e ∈ List.range 32, (s.node e).state ≠ .vacant ∧ (s.node e).port = p ∧ (s.node e).address = address := by
  simp [State.findNode_eq]

/-- A tag is that of a request or of an unpopped completion (R139). -/
theorem State.tagInUse_iff (s : State) (tag : Octet) :
    s.tagInUse tag = true ↔ (∃ q ∈ s.requests, q.tag = tag) ∨ ∃ c ∈ s.completions, c.tag = tag := by
  simp [State.tagInUse]

/-! ### Deadlines -/

/-- The requests that expire leave, and the rest of them have counted: which is which does not depend on the order, for
no two share a tag (R136, R143). -/
theorem counted_filter_expired {l : List Request} (hd : (l.map Request.tag).Nodup) :
    (l.map Request.counted).filter (fun x => decide (x.tag ∉ (l.filter Request.expires).map Request.tag)) =
      (l.filter fun q => !q.expires).map Request.counted := by
  rw [List.filter_map]
  refine congrArg (List.map Request.counted) (List.filter_congr fun q hq => ?_)
  have hgone : q.tag ∈ (l.filter Request.expires).map Request.tag ↔ q.expires = true := by
    rw [List.mem_map]
    refine ⟨fun ⟨x, hx, htag⟩ => ?_, fun h => ⟨q, List.mem_filter.mpr ⟨hq, h⟩, rfl⟩⟩
    obtain ⟨hx, hexpires⟩ := List.mem_filter.mp hx
    exact List.inj_on_of_nodup_map hd hx hq htag ▸ hexpires
  simp only [Function.comp_apply, Calm.counted_tag, hgone, Bool.decide_eq_true, decide_not]

/-- The pool once its deadlines have counted, before an arbiter acts on it (R143, R148). -/
def State.deadlinesCounted (s : State) : State :=
  { s with
    requests := (s.requests.filter fun q => !q.expires).map Request.counted
    completions := s.completions ++ (s.requests.filter Request.expires).map fun q =>
      ⟨q.tag, .expired, q.attempts, s.epoch16⟩ }

/-- The port's arbiter acts on the loss of its oldest WAITING request at the mark (R96, R143). -/
def State.losesOldest (s : State) (p : Port) : Bool :=
  (s.port p).enabled && (s.port p).isIdle && (s.oldestWaiting p).any Request.expires

theorem State.markRequestPool_eq {s : State} (h : PoolOk s) :
    s.markRequestPool = s.deadlinesCounted.evaluatePorts ([Port.A, Port.B].filter s.losesOldest) := by
  have hd : (s.requests.map Request.tag).Nodup := (List.nodup_append.mp h.distinct).1
  unfold State.markRequestPool
  refine congrArg (State.evaluatePorts · ([Port.A, Port.B].filter s.losesOldest)) ?_
  rw [foldl_complete]
  exact congrArg (fun l => { s.deadlinesCounted with requests := l }) (counted_filter_expired hd)

/-- An outstanding mark at the request pool (R143). -/
theorem State.takeMark_requestPool {s : State} (hpool : PoolOk s) (h : MarkBlock.requestPool ∈ s.marks) :
    s.takeMark .requestPool =
      ({ s with marks := s.marks.erase .requestPool } : State).deadlinesCounted.evaluatePorts
        ([Port.A, Port.B].filter s.losesOldest) := by
  have hlost : ({ s with marks := s.marks.erase .requestPool } : State).losesOldest = s.losesOldest :=
    funext fun p => by cases p <;> rfl
  have hok : PoolOk { s with marks := s.marks.erase .requestPool } := ⟨hpool.atMostSixteen, hpool.distinct⟩
  rw [← hlost, ← State.markRequestPool_eq hok]
  exact State.deliver_of_mem h

end Sys2Proof.Machine
end

section
/-! PROOF. The statements of the request pool. -/

namespace Sys2Proof.Machine

/-- Settles O25: on an empty ring, and on one with a head. -/
theorem popCompletionTakesHead : Obligations.PopCompletionTakesHead := by
  intro s
  have hexec : exec .popCompletion s = execPopCompletion s := rfl
  rw [hexec, execPopCompletion]
  obtain ⟨u, ring, rfl⟩ : ∃ (u : State) (ring : List Completion), s = { u with completions := ring } :=
    ⟨s, s.completions, rfl⟩
  cases ring with
  | nil => rfl
  | cons c rest =>
    obtain ⟨tag, status, attempts, epoch⟩ := c
    cases status with
    | nak reason => cases reason <;> rfl
    | _ => rfl

/-- Settles O24, by what stands at the tag: nothing, a WAITING request, or one IN_FLIGHT. -/
theorem abortStopsRequest : Obligations.AbortStopsRequest := by
  intro s
  have hexec : exec .abort s = execAbort s := rfl
  have hrequest : (s.taken 0x41).requestOf ((s.taken 0x41).arg 0) = s.requests.find? fun q => q.tag = s.arg 0 := rfl
  rw [hexec, execAbort, hrequest]
  cases s.requests.find? fun q => q.tag = s.arg 0 with
  | none => rfl
  | some q =>
    dsimp only
    cases q.state <;> rfl

/-- Settles O23: the staging area is read by `State.stagedRequest_eq`, before the checks of target, port, tag and
slots. -/
theorem submitJoinsPool : Obligations.SubmitJoinsPool := by
  intro s o port used refused
  have hexec : exec .submit s = execSubmit s := rfl
  have hstaged : (s.taken 0x40).stagedRequest = s.stagedRequest := rfl
  rw [hexec, execSubmit, hstaged, State.stagedRequest_eq]
  refine congrArg Host.Outcome.next ?_
  by_cases hbad : s.BadRequest
  · rw [if_pos hbad]
    exact (if_pos hbad).symm
  · have htarget : (!s.requestFromStaging.isBroadcast && (s.findNode port (o 2)).isNone) = true ↔
        o 2 ≠ 63 ∧ ¬∃ e ∈ List.range 32,
          (s.node e).state ≠ .vacant ∧ (s.node e).port = port ∧ (s.node e).address = o 2 := by
      rw [Bool.and_eq_true, State.findNode_isNone, Bool.not_eq_true', Request.isBroadcast, decide_eq_false_iff_not]
      rfl
    have hoff : (!(s.port port).enabled) = true ↔ (s.port port).link = .disabled := by
      simp [PortState.enabled]
    rw [if_neg hbad]
    refine Eq.trans ?_ (if_neg hbad).symm
    exact if_congr htarget rfl (if_congr hoff rfl (if_congr (s.tagInUse_iff _) rfl rfl))

/-- Settles O50: the deadlines are one change of the pool (`State.deadlinesCounted`), and the ports whose arbiters
evaluate are those that the statement asks for. -/
theorem deadlinesCountAndExpire : Obligations.DeadlinesCountAndExpire := by
  intro s hpool hmark expires counted lost t
  have hexpires : Request.expires = expires := funext fun q => (Bool.decide_and _ _).symm
  have hcounted : ({ s with marks := s.marks.erase .requestPool } : State).deadlinesCounted = t := by
    unfold State.deadlinesCounted
    rw [hexpires]
    rfl
  have hlost : s.losesOldest = lost := funext fun p => by
    have hidle : ((s.port p).enabled && (s.port p).isIdle) =
        decide ((s.port p).link ≠ .disabled ∧ (s.port p).sequencer = .idle) := by
      rw [Bool.eq_iff_iff, Bool.and_eq_true, PortState.enabled_iff, PortState.isIdle_iff, decide_eq_true_iff]
    rw [State.losesOldest, hidle, hexpires]
    rfl
  have hexec : exec .deadlineExpiry s = .next (t.evaluatePorts ([Port.A, Port.B].filter lost)) := by
    rw [← hlost, ← hcounted]
    exact congrArg Host.Outcome.next (State.takeMark_requestPool hpool hmark)
  obtain ⟨hnone, hA, hB, hboth⟩ := t.evaluatePorts_filter lost
  rw [hexec]
  exact ⟨fun a b => congrArg _ (hnone a b), fun a b => congrArg _ (hA a b), fun a b => congrArg _ (hB a b),
    fun a b => (hboth a b).imp (congrArg _) (congrArg _)⟩

end Sys2Proof.Machine
end

section
/-! PROOF. The request pool and the keys of the records, as every step keeps them (R2, R136). -/

namespace Sys2Proof.Machine

/-! ### The pool -/

/-- What is taken out of a list without repetitions and put behind the rest is a rearrangement of it. -/
theorem filter_notMem_append_perm {α : Type} [BEq α] [LawfulBEq α] {l gone : List α} (hd : l.Nodup)
    (hgone : ∀ a, gone.count a ≤ l.count a) : (l.filter (fun a => !gone.contains a) ++ gone).Perm l := by
  refine List.perm_iff_count.mpr fun a => ?_
  have hone : l.count a ≤ 1 := List.nodup_iff_count_le_one.mp hd a
  have hle := hgone a
  rw [List.count_append]
  by_cases hmem : a ∈ gone
  · have hkept : (l.filter fun a => !gone.contains a).count a = 0 := List.count_eq_zero.mpr (by simp [hmem])
    have hpos : 0 < gone.count a := List.count_pos_iff.mpr hmem
    omega
  · rw [List.count_filter (by simpa using hmem), List.count_eq_zero.mpr hmem, Nat.add_zero]

/-- Requests that end together take their tags from the requests to the completions (R148). -/
theorem foldl_complete_tags {s : State} (l : List Request) (st : Status) (hd : (s.requests.map Request.tag).Nodup)
    (hl : ∀ tag, (l.map Request.tag).count tag ≤ (s.requests.map Request.tag).count tag) :
    ((l.foldl (fun s q => s.complete q st) s).requests.map Request.tag ++
      (l.foldl (fun s q => s.complete q st) s).completions.map Completion.tag).Perm
    (s.requests.map Request.tag ++ s.completions.map Completion.tag) := by
  have hperm := (filter_notMem_append_perm hd hl).append_right (s.completions.map Completion.tag)
  rw [List.append_assoc] at hperm
  refine List.Perm.trans ?_ (((List.perm_append_comm).append_left _).trans hperm)
  rw [foldl_complete]
  simp only [List.map_append, List.map_map, List.filter_map, Function.comp_def, List.contains_eq_mem, decide_not,
    List.Perm.refl]

namespace PoolOk

variable {s t : State}

/-- What has the same requests and completions, but for what requests hold beside their tags, keeps the invariant. -/
theorem of_tags (h : PoolOk s) (hr : t.requests.map Request.tag = s.requests.map Request.tag)
    (hc : t.completions = s.completions) : PoolOk t := by
  have hlength := congrArg List.length hr
  rw [List.length_map, List.length_map] at hlength
  exact ⟨by rw [hlength, hc]; exact h.atMostSixteen, by rw [hr, hc]; exact h.distinct⟩

theorem of_pool (h : PoolOk s) (hr : t.requests = s.requests) (hc : t.completions = s.completions) : PoolOk t :=
  h.of_tags (by rw [hr]) hc

theorem inhSettle (u : InhibitUnit) (n : Octet) (h : PoolOk s) : PoolOk ({ s with inh := u : State }.inhSettle n) := by
  obtain ⟨u', k, e⟩ := State.inhSettle_eq { s with inh := u } n
  rw [e]
  exact h.of_pool rfl rfl

/-- Requests that end together leave as many slots in use, with the same tags (R148). -/
theorem completeAll (l : List Request) (st : Status) (h : PoolOk s)
    (hl : ∀ tag, (l.map Request.tag).count tag ≤ (s.requests.map Request.tag).count tag) :
    PoolOk (l.foldl (fun s q => s.complete q st) s) := by
  have htags := foldl_complete_tags l st (List.nodup_append.mp h.distinct).1 hl
  have hlength := htags.length_eq
  simp only [List.length_append, List.length_map] at hlength
  exact ⟨hlength.trans_le h.atMostSixteen, htags.nodup_iff.mpr h.distinct⟩

/-- A request with a tag that is not in use takes a free slot (R139). -/
theorem submit {q : Request} (h : PoolOk s) (htag : s.tagInUse q.tag = false) (hslots : s.slotsUsed < 16) :
    PoolOk { s with requests := s.requests ++ [q] } := by
  have hnew : q.tag ∉ s.requests.map Request.tag ++ s.completions.map Completion.tag := fun hmem => by
    have hused : s.tagInUse q.tag = true := (s.tagInUse_iff _).mpr (by simpa using hmem)
    rw [htag] at hused
    cases hused
  unfold State.slotsUsed at hslots
  refine ⟨by simp only [List.length_append, List.length_singleton]; omega, ?_⟩
  rw [List.map_append, List.append_assoc]
  exact List.nodup_middle.mpr (List.nodup_cons.mpr ⟨hnew, h.distinct⟩)

/-- The head of the ring leaves (R150). -/
theorem popCompletion {c : Completion} {rest : List Completion} (h : PoolOk s) (hc : s.completions = c :: rest) :
    PoolOk { s with completions := rest } := by
  have hsize := h.atMostSixteen
  have hd := h.distinct
  rw [hc] at hsize hd
  rw [List.length_cons] at hsize
  exact ⟨by dsimp only; omega, hd.sublist ((List.sublist_cons_self _ _).append_left _)⟩

/-- What every step can do keeps the pool within its slots and its tags apart. -/
theorem closed : Closed PoolOk where
  rest h hc := h.of_pool hc.requests hc.completions
  completeAll l st h hl := h.completeAll l st hl
  mapRequests f h hf := h.of_tags (by simp [Function.comp_def, hf]) rfl
  record h _ _ _ _ _ _ := h.of_pool rfl rfl
  notify r c h := by
    obtain ⟨rs, q, e⟩ := State.notify_eq _ r c
    rw [e]
    exact h.of_pool rfl rfl
  condition c on h := by
    obtain ⟨u, k, e⟩ := State.setCondition_eq _ c on
    rw [e]
    exact h.of_pool rfl rfl
  allocate h _ _ _ _ _ := h.of_pool rfl rfl
  reuse h _ _ _ _ _ _ := h.of_pool rfl rfl
  free h _ := h.of_pool rfl rfl
  pop h _ := by
    rw [State.clearQueued_eq]
    exact h.of_pool rfl rfl
  hold h hrec _ _ := by
    unfold State.takeHold
    rw [hrec]
    exact h.of_pool rfl rfl
  unhold h _ _ _ _ _ _ := h.of_pool rfl rfl
  dropHold h _ := h.of_pool rfl rfl
  ageHolds h := h.of_pool rfl rfl
  ageRecords h := h.of_pool rfl rfl
  submit h htag hslots := h.submit htag hslots
  popCompletion h hc := h.popCompletion hc
  clearConditions _ h := h.inhSettle _ _
  mask _ h := h.inhSettle _ _
  settings _ _ h := h.of_pool rfl rfl
  release h _ := h.of_pool rfl rfl
  countdown h _ _ := h.of_pool rfl rfl
  softReset _ := (poolOk_of_empty (s := State.softResetBlocks _) rfl rfl).inhSettle _ 0
  hardReset _ := poolOk_of_empty rfl rfl
  leave h _ := h.of_pool rfl rfl

end PoolOk

/-! ### The keys of the records -/

/-- The key of a record (R2). -/
def Record.key (rec : Record) : Nat × ItemType := (rec.entry, rec.itemType)

/-- The key at index `r`, `none` for a FREE record. -/
def State.keyAt (s : State) (r : Nat) : Option (Nat × ItemType) := (s.record r).map Record.key

/-- No two records have one key (R2). -/
theorem keysOk_iff (s : State) : KeysOk s ↔ ∀ r r' k, s.keyAt r = some k → s.keyAt r' = some k → r = r' := by
  constructor
  · intro h r r' k hr hr'
    obtain ⟨rec, hrec, hk⟩ := Option.map_eq_some_iff.mp hr
    obtain ⟨rec', hrec', hk'⟩ := Option.map_eq_some_iff.mp hr'
    obtain ⟨he, ht⟩ := Prod.mk.inj (hk.trans hk'.symm)
    exact h r r' rec rec' hrec hrec' he ht
  · intro h r r' rec rec' hrec hrec' he ht
    exact h r r' rec.key (congrArg (Option.map Record.key) hrec)
      ((congrArg (Option.map Record.key) hrec').trans (congrArg some (Prod.ext he.symm ht.symm)))

theorem State.keyAt_setRecord (s : State) (r r' : Nat) (o : Option Record) :
    (s.setRecord r o).keyAt r' = if r' = r then (if r < 48 then o.map Record.key else none) else s.keyAt r' := by
  unfold State.keyAt
  rw [State.record_setRecord]
  by_cases hr : r' = r <;> by_cases hlt : r < 48 <;> simp [hr, hlt]

namespace KeysOk

variable {s t : State} {r : Nat}

/-- What has no key that was not there before, each at its record, keeps the invariant. -/
theorem of_keys (h : KeysOk s) (hk : ∀ r k, t.keyAt r = some k → s.keyAt r = some k) : KeysOk t :=
  (keysOk_iff t).mpr fun r r' k hr hr' => (keysOk_iff s).mp h r r' k (hk r k hr) (hk r' k hr')

theorem of_records (h : KeysOk s) (hr : t.records = s.records) : KeysOk t :=
  h.of_keys fun r k x => by rwa [State.keyAt, State.record_congr hr] at x

/-- A record that is written with no key, or with the key that it had (R2). -/
theorem setRecord {o : Option Record} (h : KeysOk s) (ho : o = none ∨ o.map Record.key = s.keyAt r) :
    KeysOk (s.setRecord r o) := by
  refine h.of_keys fun r' k hr' => ?_
  rw [State.keyAt_setRecord] at hr'
  split at hr'
  · subst r'
    split at hr'
    · rcases ho with rfl | ho
      · cases hr'
      · rwa [← ho]
    · cases hr'
  · exact hr'

/-- A record of a key that no record has (R5). -/
theorem setRecord_new {rec : Record} (h : KeysOk s) (hnew : s.findRecord rec.entry rec.itemType = none) :
    KeysOk (s.setRecord r (some rec)) := by
  have hother : ∀ r', s.keyAt r' ≠ some rec.key := fun r' hk => by
    obtain ⟨rec', hrec', hk⟩ := Option.map_eq_some_iff.mp hk
    obtain ⟨he, ht⟩ := Prod.mk.inj hk
    have hfound := State.findRecord_some h hrec'
    rw [he, ht, hnew] at hfound
    cases hfound
  have hwritten : ∀ r' k, (s.setRecord r (some rec)).keyAt r' = some k →
      (r' = r ∧ k = rec.key) ∨ s.keyAt r' = some k := fun r' k hk => by
    rw [State.keyAt_setRecord] at hk
    split at hk
    · split at hk
      · exact .inl ⟨‹_›, (Option.some.inj hk).symm⟩
      · cases hk
    · exact .inr hk
  refine (keysOk_iff _).mpr fun r₁ r₂ k h₁ h₂ => ?_
  rcases hwritten r₁ k h₁ with ⟨e₁, hk₁⟩ | old₁ <;> rcases hwritten r₂ k h₂ with ⟨e₂, hk₂⟩ | old₂
  · rw [e₁, e₂]
  · exact absurd (hk₁ ▸ old₂) (hother r₂)
  · exact absurd (hk₂ ▸ old₁) (hother r₁)
  · exact (keysOk_iff s).mp h r₁ r₂ k old₁ old₂

/-- The record at `r` is written with the key that it had. -/
theorem setRecord_of_key {rec rec' : Record} (h : KeysOk s) (hrec : s.record r = some rec) (hk : rec'.key = rec.key) :
    KeysOk (s.setRecord r (some rec')) :=
  h.setRecord (.inr ((congrArg some hk).trans (congrArg (Option.map Record.key) hrec).symm))

theorem notify (r : Nat) (c : BitVec 5) (h : KeysOk s) : KeysOk (s.notify r c) := by
  refine h.of_keys fun r' k hk => ?_
  unfold State.keyAt at hk ⊢
  rcases s.record_notify r c r' with e | ⟨rec, hrec, e⟩
  · rwa [e] at hk
  · rw [e] at hk
    rwa [hrec]

theorem inhSettle (u : InhibitUnit) (n : Octet) (h : KeysOk s) : KeysOk ({ s with inh := u : State }.inhSettle n) := by
  obtain ⟨u', k, e⟩ := State.inhSettle_eq { s with inh := u } n
  rw [e]
  exact h.of_records rfl

/-- What every step can do keeps the keys of the records apart. -/
theorem closed : Closed KeysOk where
  rest h hc := h.of_records hc.records
  completeAll l st h _ := by
    rw [foldl_complete]
    exact h.of_records rfl
  mapRequests _ h _ := h.of_records rfl
  record h hrec he ht _ _ _ := h.setRecord_of_key hrec (Prod.ext he ht)
  notify r c h := h.notify r c
  condition c on h := by
    obtain ⟨u, k, e⟩ := State.setCondition_eq _ c on
    rw [e]
    exact h.of_records rfl
  allocate h _ hnew _ _ _ := h.setRecord_new hnew
  reuse h _ _ hnew _ _ _ := (h.setRecord_new hnew).of_records rfl
  free h _ := (h.setRecord (.inl rfl)).of_records rfl
  pop h _ := by
    unfold State.clearQueued
    split
    · exact h.of_records rfl
    · rename_i rec hrec
      exact (h.of_records rfl).setRecord_of_key hrec rfl
  hold h _ _ _ := by
    unfold State.takeHold
    split
    · exact h
    · rename_i rec hrec
      exact (h.of_records rfl).setRecord_of_key hrec rfl
  unhold h hrec he ht _ _ _ := (h.setRecord_of_key hrec (Prod.ext he ht)).of_records rfl
  dropHold h _ := h.of_records rfl
  ageHolds h := h.of_records rfl
  ageRecords h := h.of_keys fun r k hk => by
    rw [State.keyAt, State.record_ageRecords, Option.map_map] at hk
    exact hk
  submit h _ _ := h.of_records rfl
  popCompletion h _ := h.of_records rfl
  clearConditions _ h := h.inhSettle _ _
  mask _ h := h.inhSettle _ _
  settings _ _ h := h.of_records rfl
  release h _ := h.of_records rfl
  countdown h _ _ := h.of_records rfl
  softReset _ := (keysOk_of_empty (s := State.softResetBlocks _) State.record_reset).inhSettle _ 0
  hardReset _ := keysOk_of_empty State.record_reset
  leave h _ := h.of_records rfl

end KeysOk

end Sys2Proof.Machine
end

section
/-! PROOF. What events, commands and marks do to the ports and to the outstanding marks, said once: a property of these
that is closed under the primitive changes of `LinesCalm` and `LinesKept` is kept by every step (as `Calm` and `Kept`
say it of the rest of the state). -/

namespace Sys2Proof.Machine

/-! ### States with the same ports and outstanding marks -/

/-- Two states with the same ports and the same outstanding marks. -/
structure SameLines (s t : State) : Prop where
  portA : t.portA = s.portA
  portB : t.portB = s.portB
  marks : t.marks = s.marks

namespace SameLines

variable {s t u : State}

theorem refl (s : State) : SameLines s s := ⟨rfl, rfl, rfl⟩

theorem trans (h : SameLines s t) (k : SameLines t u) : SameLines s u :=
  ⟨k.portA.trans h.portA, k.portB.trans h.portB, k.marks.trans h.marks⟩

/-- `trans` with the later change named first. -/
theorem after (k : SameLines t u) (h : SameLines s t) : SameLines s u := h.trans k

theorem port (h : SameLines s t) : ∀ p, t.port p = s.port p
  | .A => h.portA
  | .B => h.portB

theorem setPort (h : SameLines s t) (p : Port) (x : PortState) : SameLines (s.setPort p x) (t.setPort p x) := by
  obtain ⟨hA, hB, hm⟩ := h
  cases p <;> constructor <;> simp [hA, hB, hm]

/-- A port that is written a second time. -/
theorem again {p : Port} {x : PortState} (h : SameLines (s.setPort p x) t) (y : PortState) :
    SameLines (s.setPort p y) (t.setPort p y) := by simpa using h.setPort p y

theorem of_port (h : ∀ p, t.port p = s.port p) (hm : t.marks = s.marks) : SameLines s t := ⟨h .A, h .B, hm⟩

theorem foldl {α : Type} {f : State → α → State} (hf : ∀ s a, SameLines s (f s a)) (l : List α) (s : State) :
    SameLines s (l.foldl f s) :=
  foldl_keeps (P := SameLines s) (fun _ a h => h.trans (hf _ a)) l (refl s)

theorem notify (s : State) (r : Nat) (c : BitVec 5) : SameLines s (s.notify r c) := by
  obtain ⟨rs, q, e⟩ := s.notify_eq r c
  rw [e]
  exact ⟨rfl, rfl, rfl⟩

theorem inhSettle (s : State) (n : Octet) : SameLines s (s.inhSettle n) := by
  obtain ⟨u, k, e⟩ := s.inhSettle_eq n
  rw [e]
  exact ⟨rfl, rfl, rfl⟩

theorem setCondition (s : State) (c : Condition) (on : Bool) : SameLines s (s.setCondition c on) := by
  obtain ⟨u, k, e⟩ := s.setCondition_eq c on
  rw [e]
  exact ⟨rfl, rfl, rfl⟩

theorem nodeNotice (s : State) (e : Nat) : SameLines s (s.nodeNotice e) := of_port (by simp) (by simp)

theorem nodeChanged (s : State) (e : Nat) : SameLines s (s.nodeChanged e) := ⟨rfl, rfl, rfl⟩

theorem unholdRecord (s : State) (r : Nat) : SameLines s (s.unholdRecord r) := by
  unfold State.unholdRecord
  split
  · exact refl s
  · split
    · exact ⟨rfl, rfl, rfl⟩
    · exact (notify _ _ _).after ⟨rfl, rfl, rfl⟩

theorem endHold (s : State) (r : Nat) : SameLines s (s.endHold r) :=
  (unholdRecord (s.dropHold r) r).after ⟨rfl, rfl, rfl⟩

theorem takeHold (s : State) (r : Nat) : SameLines s (s.takeHold r) := by
  unfold State.takeHold
  split <;> exact ⟨rfl, rfl, rfl⟩

theorem completeAll (l : List Request) (st : Status) (s : State) :
    SameLines s (l.foldl (fun s q => s.complete q st) s) := by
  rw [foldl_complete]
  exact ⟨rfl, rfl, rfl⟩

theorem endCycle (s : State) (t : Option Transaction) : SameLines s (s.endCycle t) := by
  rw [State.endCycle_rest]
  exact ⟨rfl, rfl, rfl⟩

theorem probeEntry (s : State) (e : Nat) : SameLines s (s.probeEntry e) := by
  unfold State.probeEntry
  refine (nodeNotice _ _).after ?_
  split <;> exact ⟨rfl, rfl, rfl⟩

theorem lateNotice (s : State) (p : Port) (a : Nat) : SameLines s (s.lateNotice p a) := by
  unfold State.lateNotice
  split <;> exact ⟨rfl, rfl, rfl⟩

end SameLines

/-! ### What arrivals and reports do -/

/-- A property of the ports and the outstanding marks that neither the counters nor an evaluation can end. -/
structure LinesCalm (P : State → Prop) : Prop where
  same : ∀ {s t : State}, P s → SameLines s t → P t
  counters : ∀ {s : State} (p : Port) (f : PortCounters → PortCounters), P s → P (s.modCounters p f)
  evaluate : ∀ {s : State} (p : Port), P s → P (s.evaluate p)

namespace LinesCalm

variable {P : State → Prop} (hP : LinesCalm P) {s : State}
include hP

theorem node (e : Nat) (n : NodeEntry) (h : P s) : P (s.setNode e n) := hP.same h ⟨rfl, rfl, rfl⟩

theorem taken (c : Octet) (h : P s) : P (s.taken c) := hP.same h ⟨rfl, rfl, rfl⟩

theorem result (c : ResultCode) (os : List Octet) (h : P s) : P (s.result c os) := hP.same h ⟨rfl, rfl, rfl⟩

theorem raise (e : BitVec 9) (h : P s) : P (s.raise e) := hP.same h ⟨rfl, rfl, rfl⟩

/-- A record is written, and noticed with its causes. -/
theorem recordNotify (r r' : Nat) (o : Option Record) (c : BitVec 5) (h : P s) : P ((s.setRecord r o).notify r' c) :=
  hP.same h ((SameLines.notify _ _ _).after ⟨rfl, rfl, rfl⟩)

theorem afterInhibit {t : State} (h : P t) : P (afterInhibit s t) :=
  afterInhibit_keeps (fun _ _ h => hP.same h ⟨rfl, rfl, rfl⟩) (fun _ q h => hP.evaluate q h) s h

theorem evaluatePorts (ps : List Port) (h : P s) : P (s.evaluatePorts ps) := by
  unfold State.evaluatePorts
  split
  · have hcounted : P { s with choices := s.choices + 1 } := hP.same h ⟨rfl, rfl, rfl⟩
    dsimp only
    split <;> exact hP.evaluate _ (hP.evaluate _ hcounted)
  · exact foldl_keeps (fun _ p h => hP.evaluate p h) _ h

theorem condition (c : Condition) (on : Bool) (h : P s) : P (s.setCondition c on) := hP.same h (.setCondition s c on)

theorem report (c : Condition) (on : Bool) (h : P s) : P (s.report c on) := hP.afterInhibit (hP.condition c on h)

theorem reportDataStale (h : P s) : P s.reportDataStale := hP.report _ _ h

theorem reportNodeLost (h : P s) : P s.reportNodeLost := hP.report _ _ h

/-! ### Items of a DATA frame -/

theorem evict (r : Nat) (rec : Record) (h : P s) : P (s.evict r rec) := by
  have hreused : P ((({ s.unqueue r with evictions := satInc Config.count16Max s.evictions } : State).setRecord r
      (some rec)).notify r causeNew) := hP.recordNotify _ _ _ _ (hP.same h ⟨rfl, rfl, rfl⟩)
  exact ite_keeps (hP.reportDataStale hreused) hreused

theorem allocate (rec : Record) (h : P s) : P (s.allocate rec) := by
  unfold State.allocate
  split
  · exact hP.recordNotify _ _ _ _ h
  · split
    · exact hP.evict _ _ h
    · exact hP.condition _ _ (hP.same h ⟨rfl, rfl, rfl⟩)

theorem updateRecord (r : Nat) (rec : Record) (item : Item) (seq : Octet) (a : ItemAttributes) (h : P s) :
    P (s.updateRecord r rec item seq a) := by
  have hwritten := fun o c => hP.recordNotify r r o c h
  exact ite_keeps (hwritten _ _) (hP.reportDataStale (hwritten _ _))

theorem shadowRecord (r : Nat) (rec : Record) (item : Item) (seq : Octet) (a : ItemAttributes) (h : P s) :
    P (s.shadowRecord r rec item seq a) := by
  have hwritten := fun (n : Nat) o c =>
    hP.recordNotify r r o c (hP.same (t := { s with shadowOverwrites := n }) h ⟨rfl, rfl, rfl⟩)
  exact ite_keeps (hwritten _ _ _) (hP.reportDataStale (hwritten _ _ _))

theorem arrive (e : Nat) (item : Item) (seq : Octet) (a : ItemAttributes) (h : P s) : P (s.arrive e item seq a) := by
  unfold State.arrive
  split
  · exact hP.allocate _ h
  · split
    · exact h
    · exact ite_keeps (hP.shadowRecord _ _ _ _ _ h) (hP.updateRecord _ _ _ _ _ h)

theorem takeItem (e : Nat) (seq : Octet) (item : Item) (h : P s) : P (State.takeItem e seq s item) := by
  unfold State.takeItem
  dsimp only
  split
  · exact hP.arrive _ _ _ _ h
  · exact hP.counters _ _ h

theorem nodeSuccess (e : Nat) (seq : Octet) (items : List Item) (h : P s) : P (s.nodeSuccess e seq items) := by
  have hentry : P (s.setNode e { s.node e with polled := false, missCount := 0, state := .present }) := hP.node _ _ h
  have hitems : ∀ {u : State}, P u → P
      (if ((u.node e).checkSequence seq).2 then
        items.foldl (State.takeItem e seq) (u.setNode e ((u.node e).checkSequence seq).1)
      else u.setNode e ((u.node e).checkSequence seq).1) := fun hu =>
    ite_keeps (foldl_keeps (fun _ i h => hP.takeItem e seq i h) _ (hP.node _ _ hu)) (hP.node _ _ hu)
  have hchanged := ite_keeps (c := (s.node e).state = .present) hentry (hP.same hentry (.nodeChanged _ e))
  exact hitems (ite_keeps (hP.reportNodeLost hchanged) hchanged)

/-! ### Records that go, or go STALE -/

theorem freeReporting (r : Nat) (h : P s) : P (s.freeReporting r) :=
  have hfreed : P (s.freeRecord r) := hP.same h ⟨rfl, rfl, rfl⟩
  ite_keeps (hP.reportDataStale hfreed) hfreed

theorem staleRecord (r : Nat) (h : P s) : P (s.staleRecord r) := by
  unfold State.staleRecord
  split
  · exact h
  · have hwritten := fun o => hP.recordNotify r r o causeStale h
    exact ite_keeps (ite_keeps (hP.reportDataStale (hwritten _)) (hwritten _)) h

end LinesCalm

/-! ### Ports that agree with their sequencers -/

namespace PortState

variable {ps x : PortState}

/-- What else changes at a port does not matter to the agreement, as long as no enabled port is DISABLED by it. -/
theorem Ok.of_agree (h : ps.Ok) (hs : x.sequencer = ps.sequencer) (ht : x.transaction = ps.transaction)
    (hl : x.link = .disabled → ps.link = .disabled) : x.Ok where
  idle_free hi := ht.trans (h.idle_free (hs ▸ hi))
  rest_retries hsend hawait := by
    rw [ht]
    exact h.rest_retries (by rwa [isSending, hs] at hsend) (by rwa [isAwaiting, hs] at hawait)
  busy_inFlight hb := by
    rw [ht]
    exact h.busy_inFlight (by rwa [isSending, isAwaiting, hs] at hb)
  disabled_free hd := ht.trans (h.disabled_free (hl hd))

/-- A port in QUIET is as it should be with no transaction, or with a pending retry while it is enabled (R94, R106). -/
theorem ok_of_quiet {a : Option Nat} {k : Nat} (hs : x.sequencer = .quiet a k)
    (hr : ∀ t, x.transaction = some t → t.retryPending = true) (hd : x.link = .disabled → x.transaction = none) :
    x.Ok where
  idle_free hi := by rw [hs] at hi; cases hi
  rest_retries _ _ := hr
  busy_inFlight hb := by rw [isSending, isAwaiting, hs] at hb; rcases hb with hb | hb <;> cases hb
  disabled_free := hd

/-- Time that passes leaves a sequencer in its state (R94). -/
theorem Ok.tick (h : ps.Ok) : ({ ps with sequencer := ps.sequencer.tick } : PortState).Ok := by
  obtain ⟨hi, hr, hb, hd⟩ := h
  simp only [isSending, isAwaiting] at hr hb
  cases hs : ps.sequencer <;> rw [hs] at hi hr hb <;>
    exact ⟨fun e => by cases e <;> exact hi rfl, hr, hb, hd⟩

/-- The last octet of a frame leaves the port AWAITING with its transaction in flight (R100). -/
theorem Ok.awaiting (h : ps.Ok) (hs : ps.isSending = true) (k : Nat) :
    ({ ps with sequencer := .awaiting k } : PortState).Ok where
  idle_free hi := by cases hi
  rest_retries _ hawait := by cases hawait
  busy_inFlight _ := h.busy_inFlight (.inl hs)
  disabled_free hd := h.disabled_free hd

/-- A DISABLED port has nothing in flight, so that its sequencer may stay as it is (R93, R112). -/
theorem Ok.softReset (h : ps.Ok) (qgap : Octet) : (ps.softReset qgap).Ok := by
  cases he : ps.enabled with
  | true => exact ok_of_quiet (if_pos he) (fun t ht => by cases ht) fun _ => rfl
  | false =>
    have hfree : ps.transaction = none := h.disabled_free (by simpa [enabled] using he)
    refine h.of_agree ?_ hfree.symm fun hd => ?_
    · simp [PortState.softReset, he]
    · simpa [PortState.softReset, he] using hd

/-- A port that loses a node entry has the transaction that it had, but for the mark of it (R119). -/
theorem Ok.loseEntry (h : ps.Ok) (e : Nat) : (ps.loseEntry e).Ok := by
  obtain ⟨hi, hr, hb, hd⟩ := h
  have hkept : ∀ t, (ps.loseEntry e).transaction = some t →
      ∃ u, ps.transaction = some u ∧ t.retryPending = u.retryPending := fun t ht => by
    obtain ⟨u, hu, rfl⟩ := Option.map_eq_some_iff.mp ht
    exact ⟨u, hu, by split <;> rfl⟩
  have hnone : ps.transaction = none → (ps.loseEntry e).transaction = none := fun hn => by
    rw [PortState.loseEntry, hn]
    rfl
  refine ⟨fun h => hnone (hi h), fun hsend hawait t ht => ?_, fun hbusy => ?_, fun h => hnone (hd h)⟩
  · obtain ⟨u, hu, hretry⟩ := hkept t ht
    exact hretry.trans (hr hsend hawait u hu)
  · obtain ⟨u, hu, hretry⟩ := hb hbusy
    refine ⟨if u.entry = some e then { u with entryLost := true } else u, by rw [PortState.loseEntry, hu]; rfl, ?_⟩
    split <;> exact hretry

end PortState

/-- An evaluation leaves its own port as it should be, whatever the other port is (R96). -/
theorem State.ok_evaluate {s : State} {p : Port} (h : (s.port p).Ok) : ((s.evaluate p).port p).Ok := by
  by_cases hoff : (s.port p).link = .disabled ∨ (s.port p).sequencer ≠ .idle
  · rw [State.evaluate_of_off hoff]
    exact h
  obtain ⟨hlink, hidle⟩ := not_or.mp hoff
  have hstart : ∀ (u : State) (t : Transaction), (u.port p).link = (s.port p).link → ((u.startAttempt p t).port p).Ok :=
    fun u t hu => by
      obtain ⟨x, hx, hsend, hl, ht⟩ := u.port_startAttempt p p t
      rw [hx, if_pos rfl]
      exact PortState.ok_of_sending hsend (by rwa [hl, hu]) ht
  have hsearch : ((s.requestCandidate p (s.waitingOf p)).1).port p = s.port p := by simp
  rw [State.evaluate_of_free hoff (h.idle_free (not_not.mp hidle)), State.grantFirst_eq rfl]
  generalize s.requestCandidate p (s.waitingOf p) = found at hsearch ⊢
  have hpoll : ∀ e, ((found.1.grantPoll p e).port p).Ok := fun e => hstart _ _ (by simp [State.modPort, hsearch])
  have hrequest : ∀ q, ((found.1.grantRequest p q).port p).Ok := fun q => hstart _ _ (by simp [State.modPort, hsearch])
  unfold State.grantBetween
  split
  · split
    · rwa [hsearch]
    · exact hpoll _
  · split
    · exact hrequest _
    · split
      · exact hpoll _
      · exact hrequest _

/-! ### What the end of an attempt leaves at its port -/

/-- Silence is counted, and may take the port DOWN (R82). -/
theorem State.silenceUpdate_lines (s : State) (p : Port) : ∃ n l, (l = (s.port p).link ∨ l = .down) ∧
    SameLines (s.setPort p { s.port p with silence := n, link := l }) (s.silenceUpdate p) := by
  unfold State.silenceUpdate
  dsimp only
  split
  · exact ⟨_, _, .inl rfl, by rw [State.setPort_port]; exact .refl s⟩
  · split
    · exact ⟨_, _, .inr rfl, (SameLines.setCondition _ _ _).after ⟨rfl, rfl, rfl⟩⟩
    · exact ⟨_, _, .inl rfl, .refl _⟩

theorem State.reportFailed_lines (s : State) (p : Port) (t : Transaction) :
    SameLines (s.setPort p { s.port p with transaction := none }) (s.reportFailed p t) :=
  .of_port (fun q => by rw [State.port_reportFailed, State.port_setPort]) (by simp)

end Sys2Proof.Machine
end

section
/-! PROOF. The induction over a step for the ports and the outstanding marks. -/

namespace Sys2Proof.Machine

/-! ### Commands that leave the ports and the marks alone -/

/-- The commands of the records, the holds, the filters and the registers that reach no port. -/
def leavesLines : Instr → Bool
  | .badCommand _ | .popChange | .peekChange | .pin | .unpin | .hold | .holdSet | .unhold | .filterSet | .nodeSet
  | .nodeAck | .popCompletion | .evfWrite _ _ | .eveWrite _ _ | .eppLowWrite _ | .periodWrite _ | .epcSnapshot => true
  | _ => false

theorem SameLines.setPinned (s : State) (b : Bool) : SameLines s (s.setPinned b) := by
  refine ite_keeps (P := SameLines s) ⟨rfl, rfl, rfl⟩ ?_
  split <;> exact ⟨rfl, rfl, rfl⟩

/-- Those commands leave the ports and the outstanding marks as they are. -/
theorem exec_sameLines {c : Instr} {s t : State} (hc : leavesLines c = true) (he : exec c s = .next t) :
    SameLines s t := by
  have hresult : ∀ {u : State} (r : ResultCode) (os : List Octet), SameLines s u → SameLines s (u.result r os) :=
    fun r os hu => ⟨hu.portA, hu.portB, hu.marks⟩
  have hrefused : ∀ code r os, SameLines s ((s.taken code).result r os) := fun code r os => ⟨rfl, rfl, rfl⟩
  cases c with
  | badCommand code =>
    simp only [exec, execBadCommand] at he
    split at he
    · cases he
      exact hrefused _ _ _
    · cases he
  | popChange =>
    cases he
    simp only [State.clearQueued_eq]
    split
    · exact hrefused _ _ _
    · exact hresult _ _ ⟨rfl, rfl, rfl⟩
  | peekChange =>
    cases he
    split <;> exact hrefused _ _ _
  | pin | unpin =>
    cases he
    exact (SameLines.setPinned _ _).after ⟨rfl, rfl, rfl⟩
  | hold =>
    cases he
    refine ite_keeps (hrefused _ _ _) ?_
    split
    · exact hrefused _ _ _
    · refine ite_keeps (hrefused _ _ _) (ite_keeps (hrefused _ _ _) (hresult _ _ ?_))
      exact (SameLines.takeHold _ _).after ⟨rfl, rfl, rfl⟩
  | holdSet =>
    cases he
    refine ite_keeps (hrefused _ _ _) ?_
    split
    · exact hrefused _ _ _
    · exact hresult _ _ ((SameLines.foldl .takeHold _ _).after ⟨rfl, rfl, rfl⟩)
  | unhold =>
    cases he
    refine ite_keeps (hrefused _ _ _) ?_
    split
    · exact hrefused _ _ _
    · exact ite_keeps (hresult _ _ ((SameLines.endHold _ _).after ⟨rfl, rfl, rfl⟩)) (hrefused _ _ _)
  | filterSet =>
    cases he
    refine ite_keeps (hrefused _ _ _) ?_
    split
    · exact hrefused _ _ _
    · exact hresult _ _ ⟨rfl, rfl, rfl⟩
  | nodeSet =>
    cases he
    refine ite_keeps (hrefused _ _ _) (ite_keeps (hrefused _ _ _) ?_)
    split
    · exact hrefused _ _ _
    · exact ite_keeps (hrefused _ _ _) (ite_keeps (hrefused _ _ _) (hresult _ _ ⟨rfl, rfl, rfl⟩))
  | nodeAck =>
    cases he
    exact ite_keeps (hresult _ _ ⟨rfl, rfl, rfl⟩) (ite_keeps (hrefused _ _ _) (hrefused _ _ _))
  | popCompletion =>
    cases he
    split
    · exact hrefused _ _ _
    · exact hresult _ _ ⟨rfl, rfl, rfl⟩
  | evfWrite | eveWrite | eppLowWrite | periodWrite | epcSnapshot =>
    cases he
    exact ⟨rfl, rfl, rfl⟩
  | _ => cases hc

/-! ### A port that hears the line -/

/-- The port has heard the line, before anything is reported (R83, R91). -/
def State.heardAt (s : State) (p : Port) : State :=
  let ps := s.port p
  let t := s.setPort p
    { ps with
      silence := 0
      heard := ps.isSending || ps.isAwaiting || ps.heard
      link := if ps.link = .searching ∨ ps.link = .down then .up else ps.link }
  if ps.link = .searching ∨ ps.link = .down then t.raise eventPort else t

theorem State.hear_eq (s : State) (p : Port) :
    s.hear p = if (s.port p).link = .down then (s.heardAt p).report (portDown p) false else s.heardAt p := rfl

/-- Hearing leaves the sequencer and the transaction, and disables no port. -/
theorem State.heardAt_lines (s : State) (p : Port) : ∃ x : PortState,
    SameLines (s.setPort p x) (s.heardAt p) ∧ x.sequencer = (s.port p).sequencer ∧
    x.transaction = (s.port p).transaction ∧ (x.link = .disabled → (s.port p).link = .disabled) := by
  refine ⟨_, ite_keeps (P := SameLines _) ⟨rfl, rfl, rfl⟩ (.refl _), rfl, rfl, fun hd => ?_⟩
  dsimp only at hd
  split at hd
  · cases hd
  · exact hd

/-- Hearing leaves a port that is not IDLE so, for no arbiter acts on it (R83, R96). -/
theorem State.isIdle_hear {s : State} {p : Port} (hbusy : (s.port p).isIdle = false) :
    ((s.hear p).port p).isIdle = false := by
  obtain ⟨x, hheard, hs, -, -⟩ := s.heardAt_lines p
  have hat : ((s.heardAt p).port p).isIdle = false := by
    rw [hheard.port, State.port_setPort_same, PortState.isIdle, hs]
    exact hbusy
  rw [State.hear_eq]
  split
  · rwa [State.port_report_of_busy hat]
  · exact hat

/-! ### The primitive changes -/

/-- A property of the ports and the outstanding marks closed under every primitive change of these that a command can
make, but for HARD_RESET: a port may be replaced by one that is as it should be wherever the old one was. -/
structure LinesKept (P : State → Prop) : Prop extends LinesCalm P where
  port : ∀ {s : State} {p : Port} {x : PortState}, P s → ((s.port p).Ok → x.Ok) → P (s.setPort p x)
  quietEnded : ∀ {s : State} (p : Port), P s → P (s.quietEnded p)
  pollReplied : ∀ {s : State} {p : Port} (t : Transaction) (seq : Octet) (items : List Item), P s →
    (s.port p).isIdle = false → P (s.pollReplied p t seq items)
  erase : ∀ {s : State} (b : MarkBlock), P s → P { s with marks := s.marks.erase b }
  boundary : ∀ {s : State}, P s → P s.boundary
  softReset : ∀ {s : State}, P s → P s.softResetBlocks

namespace LinesKept

variable {P : State → Prop} (hP : LinesKept P) {s : State} {p : Port}
include hP

/-- A port that changes in nothing that its transaction and its sequencer are agreed on. -/
theorem agree {x : PortState} (h : P s) (hs : x.sequencer = (s.port p).sequencer)
    (ht : x.transaction = (s.port p).transaction) (hl : x.link = .disabled → (s.port p).link = .disabled) :
    P (s.setPort p x) := hP.port h fun hok => hok.of_agree hs ht hl

/-- After whatever else, the sequencer enters QUIET, with no transaction or with a pending retry. -/
theorem enterQuiet {t : State} {x : PortState} (a : Option Nat) (h : P s) (hlines : SameLines (s.setPort p x) t)
    (hr : ∀ u, x.transaction = some u → u.retryPending = true)
    (hd : (s.port p).Ok → x.link = .disabled → x.transaction = none) : P (t.enterQuiet p a) := by
  have hport : t.port p = x := (hlines.port p).trans (s.port_setPort_same p x)
  refine hP.same (hP.port (x := { x with sequencer := .quiet a (t.qgap.toNat * Config.ticksPerTenMicros) }) h
    fun hok => PortState.ok_of_quiet rfl hr (hd hok)) ?_
  rw [State.enterQuiet, State.modPort, hport]
  exact hlines.again _

/-! ### The end of an attempt -/

theorem failAttempt {u : Transaction} (t : Transaction) (hu : (s.port p).transaction = some u) (h : P s) :
    P (s.failAttempt p t) := by
  obtain ⟨n, l, hl, hsilence⟩ := s.silenceUpdate_lines p
  have hport := (hsilence.port p).trans (s.port_setPort_same p _)
  have hon : (s.port p).Ok → l ≠ .disabled := fun hok hd => by
    rcases hl with rfl | rfl
    · rw [hok.disabled_free hd] at hu
      cases hu
    · cases hd
  unfold State.failAttempt
  dsimp only
  split
  · refine hP.enterQuiet _ h (hsilence.again _) (fun v hv => ?_) fun hok hd => ?_
    · cases hv
      rfl
    · rw [hport] at hd
      exact absurd hd (hon hok)
  · refine hP.enterQuiet _ h ((State.reportFailed_lines _ p t).after (hsilence.again _)) (fun v hv => ?_) fun _ _ => rfl
    cases hv

theorem enterQuiet_free {t : State} {x : PortState} (a : Option Nat) (h : P s) (hlines : SameLines (s.setPort p x) t)
    (hx : x.transaction = none) : P (t.enterQuiet p a) :=
  hP.enterQuiet a h hlines (fun u hu => by rw [hx] at hu; cases hu) fun _ _ => hx

theorem requestReplied (t : Transaction) (tag : Octet) (st : Status) (h : P s) : P (s.requestReplied p t tag st) := by
  obtain ⟨n, l, -, hsilence⟩ := s.silenceUpdate_lines p
  have hdropped := hsilence.again { (s.silenceUpdate p).port p with transaction := none }
  unfold State.requestReplied
  dsimp only
  split
  · exact hP.enterQuiet_free _ h (hdropped.trans ⟨rfl, rfl, rfl⟩) rfl
  · exact hP.enterQuiet_free _ h hdropped rfl

theorem transmitted (p : Port) (h : P s) : P (s.transmitted p) := by
  have hdropped : SameLines (s.setPort p { s.port p with transaction := none }) (s.dropTransaction p) := .refl _
  unfold State.transmitted
  split
  · rename_i frame tmo left t hs _
    split
    · dsimp only
      split
      · exact hP.enterQuiet_free _ h (hdropped.trans ⟨rfl, rfl, rfl⟩) rfl
      · exact hP.enterQuiet_free _ h hdropped rfl
    · exact hP.port h fun hok => hok.awaiting (by rw [PortState.isSending, hs]) _
  · exact h

/-! ### Frames and timers -/

theorem hear (p : Port) (h : P s) : P (s.hear p) := by
  obtain ⟨x, hheard, hs, ht, hl⟩ := s.heardAt_lines p
  have hat : P (s.heardAt p) := hP.same (hP.agree h hs ht hl) hheard
  rw [State.hear_eq]
  exact ite_keeps (hP.report _ _ hat) hat

theorem strayFrame (p : Port) (h : P s) : P (s.strayFrame p) := hP.counters p _ h

theorem formatError (p : Port) (h : P s) : P (s.formatError p) := hP.raise _ (hP.counters p _ h)

theorem mismatch (t : Transaction) (ht : (s.port p).transaction = some t) (h : P s) : P (s.mismatch p t) :=
  hP.failAttempt t (u := t) (by simp [State.formatError, State.modCounters, State.modPort, ht]) (hP.formatError p h)

theorem frameAwaited {t : Transaction} (ht : (s.port p).transaction = some t) (hbusy : (s.port p).isIdle = false)
    (f : RxFrame) (h : P s) : P (s.frameAwaited p t f) := by
  have hmismatch := hP.mismatch t ht h
  unfold State.frameAwaited
  split
  · split
    · exact hP.pollReplied t _ _ h hbusy
    · exact ite_keeps (hP.requestReplied _ _ _ h) hmismatch
    · exact ite_keeps (hP.requestReplied _ _ _ h) hmismatch
    all_goals exact hmismatch
  · exact hP.strayFrame p h

theorem frameHandedOn {sq : Sequencer} (hsq : ∀ k, sq = .awaiting k → (s.port p).isIdle = false) (f : RxFrame)
    (h : P s) : P (s.frameHandedOn p sq f) := by
  unfold State.frameHandedOn
  split
  · split
    · exact hP.frameAwaited ‹_› (hsq _ rfl) f h
    · exact hP.strayFrame p h
  · exact ite_keeps (hP.same (hP.counters p _ h) (.lateNotice _ _ _)) (hP.strayFrame p h)
  · exact hP.strayFrame p h
  · exact h

theorem crcError (p : Port) (h : P s) : P (s.crcError p) := by
  have hcounted : P ((s.modCounters p fun c => { c with crcErrors := satInc Config.count16Max c.crcErrors }).modPort p
      fun ps => { ps with windowCrc := satInc Config.count8Max ps.windowCrc }) :=
    hP.agree (hP.counters p _ h) rfl rfl id
  exact ite_keeps (hP.raise _ (hP.condition _ _ (hP.agree hcounted rfl rfl id))) hcounted

theorem corruptNotice (p : Port) (h : P s) : P (s.corruptNotice p) := by
  unfold State.corruptNotice
  split
  · exact hP.failAttempt _ ‹_› h
  · exact h

theorem frameClassified (p : Port) (c : RxClass) (h : P s) : P (s.frameClassified p c) := by
  cases c with
  | format => exact hP.formatError p h
  | crc => exact hP.corruptNotice p (hP.crcError p h)
  | foreign => exact hP.hear p (hP.counters p _ h)
  | valid f =>
    refine hP.frameHandedOn (fun k hk => State.isIdle_hear ?_) f (hP.hear p h)
    simp [PortState.isIdle, hk]

theorem timedOut (p : Port) (h : P s) : P (s.timedOut p) := by
  unfold State.timedOut
  split
  · rename_i ht
    exact hP.failAttempt _ (by simpa [State.modCounters, State.modPort] using ht) (hP.counters p _ h)
  · exact h

/-! ### Marks and time -/

theorem fallDue (e : Nat) (h : P s) : P (s.fallDue e) :=
  have hentry := fun n => hP.node e n h
  ite_keeps (hP.raise _ (hentry _)) (hP.evaluate _ (hP.agree (hentry _) rfl rfl id))

theorem fallsDue (l : List Nat) (h : P s) : P (l.foldl State.fallDue s) :=
  foldl_keeps (fun _ e h => hP.fallDue e h) l h

theorem countEntry (e : Nat) (h : P s) : P (s.countEntry e) :=
  ite_keeps (ite_keeps (hP.fallDue e h) (hP.node _ _ h)) h

theorem markRequestPool (h : P s) : P s.markRequestPool :=
  hP.evaluatePorts _ (hP.same h ((SameLines.completeAll _ _ _).after ⟨rfl, rfl, rfl⟩))

theorem markCrcWindow (p : Port) (h : P s) : P (s.markCrcWindow p) :=
  ite_keeps (ite_keeps (hP.agree h rfl rfl id) (hP.agree h rfl rfl id)) h

theorem markInhibitUnit (h : P s) : P s.markInhibitUnit := by
  unfold State.markInhibitUnit
  split
  · exact ite_keeps (hP.afterInhibit (hP.same h ⟨rfl, rfl, rfl⟩)) (hP.same h ⟨rfl, rfl, rfl⟩)
  all_goals exact h

theorem handleMark (b : MarkBlock) (h : P s) : P (s.handleMark b) := by
  cases b with
  | captureTable =>
    exact foldl_keeps (fun _ r h => hP.staleRecord r h) _ (hP.same h ⟨rfl, rfl, rfl⟩)
  | recordAccess =>
    exact foldl_keeps (fun _ r h => hP.raise _ (hP.same h (.endHold _ r))) _ (hP.same h ⟨rfl, rfl, rfl⟩)
  | nodeTable => exact foldl_keeps (fun _ e h => hP.countEntry e h) _ h
  | requestPool => exact hP.markRequestPool h
  | crcWindow p => exact hP.markCrcWindow p h
  | inhibitUnit => exact hP.markInhibitUnit h

theorem deliver (b : MarkBlock) (h : P s) : P (s.deliver b) := ite_keeps (hP.handleMark b (hP.erase b h)) h

theorem takeMark (b : MarkBlock) (h : P s) : P (s.takeMark b) :=
  ite_keeps (hP.deliver _ (hP.deliver _ h)) (hP.deliver b h)

theorem takeMarks (bs : List MarkBlock) (h : P s) : P (s.takeMarks bs) :=
  foldl_keeps (fun _ b h => hP.takeMark b h) bs h

theorem tickPort (p : Port) (h : P s) : P (s.modPort p fun ps => { ps with sequencer := ps.sequencer.tick }) :=
  hP.port h PortState.Ok.tick

theorem tick (h : P s) : P s.tick :=
  hP.tickPort .B (hP.tickPort .A (hP.same (t := { s with epoch := s.epoch.tick }) h ⟨rfl, rfl, rfl⟩))

theorem autoEvent (e : AutoEvent) (h : P s) : P (s.autoEvent e) := by
  cases e with
  | portTimer p =>
    unfold State.autoEvent
    dsimp only
    split
    · exact hP.transmitted p h
    · exact hP.timedOut p h
    · exact hP.quietEnded p h
    · exact h
  | boundary => exact hP.boundary h
  | mark b => exact hP.takeMark b h

theorem idleStep (h : P s) : P s.idleStep := by
  cases hheld : s.held with
  | true => rwa [State.idleStep_of_held hheld]
  | false =>
    by_cases hripe : s.ripeEvents = []
    · rw [State.idleStep_of_none hheld hripe]
      exact hP.tick h
    · obtain ⟨e, -, t, ht, hstep⟩ := State.idleStep_of_some hheld hripe
      rw [hstep]
      refine hP.autoEvent e ?_
      rcases List.mem_pair.mp ht with rfl | rfl
      · exact h
      · exact hP.same h ⟨rfl, rfl, rfl⟩

/-! ### Commands that stop, enable or reset ports -/

theorem stopPort (p : Port) (link : LinkState) (h : P s) : P (s.stopPort p link) := by
  have hstopped : P (s.setPort p ((s.port p).stop link s.qgap)) := hP.port h fun _ => PortState.stop_ok _ _ _
  have hleft : P (s.portLeft p link) := ite_keeps hstopped (hP.raise _ hstopped)
  have habandoned : P (s.abandoned p link) :=
    hP.same (ite_keeps (hP.report _ _ hleft) hleft) ((SameLines.completeAll _ _ _).after (.endCycle _ _))
  exact hP.reportNodeLost (hP.same habandoned (SameLines.foldl .probeEntry _ _))

theorem resetPort (p : Port) (h : P s) : P (s.resetPort p) :=
  hP.fallsDue _ (hP.agree (hP.stopPort p .searching h) rfl rfl id)

theorem enablePort (p : Port) (h : P s) : P (s.enablePort p) :=
  hP.fallsDue _ (hP.raise _ (hP.agree h rfl rfl fun hd => by cases hd))

theorem disableNode (e : Nat) (h : P s) : P (s.disableNode e) := by
  have hlost := hP.port (p := (s.node e).port) h fun hok => hok.loseEntry e
  have hnoticed := fun n => hP.same (hP.node e n hlost) (.nodeNotice _ e)
  exact ite_keeps (hP.reportNodeLost (hnoticed _)) (hnoticed _)

/-! ### Every command -/

theorem showView (os : List Octet) (h : P s) : P (s.showView os) :=
  hP.same (t := { s with view := viewOctets os }) h ⟨rfl, rfl, rfl⟩

theorem writeRegister (a : Nat) (v : Octet) (h : P s) : P (s.writeRegister a v) := by
  have hsame : ∀ {t : State}, SameLines s t → P t := fun ht => hP.same h ht
  have hrate : ∀ (p : Port) (rate : BitRate), P (s.setPort p { s.port p with storedRate := rate }) := fun p rate =>
    hP.agree h rfl rfl id
  unfold State.writeRegister
  iterate 4 refine ite_keeps (hsame ⟨rfl, rfl, rfl⟩) ?_
  refine ite_keeps (hrate .A _) (ite_keeps (hrate .B _) ?_)
  iterate 7 refine ite_keeps (hsame ⟨rfl, rfl, rfl⟩) ?_
  exact h

theorem freeAllReporting (l : List Nat) (h : P s) : P (l.foldl State.freeReporting s) :=
  foldl_keeps (fun _ r h => hP.freeReporting r h) l h

theorem abortWaiting (q : Request) (h : P s) : P (s.abortWaiting q) :=
  have hdone : P (s.complete q .aborted) := hP.same h ⟨rfl, rfl, rfl⟩
  ite_keeps (hP.evaluate _ hdone) hdone

theorem writeMask (v : Octet) (h : P s) : P (s.writeMask v) :=
  ite_keeps h (hP.afterInhibit (hP.same h ((SameLines.inhSettle _ _).after ⟨rfl, rfl, rfl⟩)))

/-- Every command but HARD_RESET keeps the property. -/
theorem exec {c : Instr} {t : State} (hc : c ≠ .hardReset) (h : P s) (he : Machine.exec c s = .next t) : P t := by
  have hwhole : P s.wholeMark := hP.takeMarks _ h
  have htaken : ∀ code, P (s.taken code) := fun code => hP.taken code h
  have hrefused : ∀ code r os, P ((s.taken code).result r os) := fun code r os => hP.result r os (htaken code)
  cases c with
  | hardReset => exact absurd rfl hc
  | softReset =>
    cases he
    exact hP.same (hP.softReset (htaken _)) (.inhSettle _ _)
  | viewRecord =>
    cases he
    refine ite_keeps (hrefused _ _ _) ?_
    dsimp only
    split <;> exact hP.result _ _ (hP.showView _ (hP.taken _ hwhole))
  | viewNode =>
    cases he
    exact ite_keeps (hrefused _ _ _) (hP.result _ _ (hP.showView _ (hP.taken _ hwhole)))
  | viewPort =>
    cases he
    split
    · exact hrefused _ _ _
    · exact hP.result _ _ (hP.showView _ (hP.taken _ hwhole))
  | release =>
    cases he
    refine ite_keeps (hrefused _ _ _) ?_
    split
    · exact hrefused _ _ _
    · exact ite_keeps (hrefused _ _ _) (hP.result _ _ (hP.freeReporting _ (htaken _)))
  | flush =>
    cases he
    have hfreed := SameLines.foldl (f := State.freeRecord) (fun _ _ => ⟨rfl, rfl, rfl⟩)
    exact hP.result _ _ (hP.reportDataStale (hP.same (htaken _) (hfreed _ _)))
  | nodeEnable =>
    cases he
    refine ite_keeps (hrefused _ _ _) (ite_keeps (hrefused _ _ _) (hP.result _ _ ?_))
    exact ite_keeps (hP.fallDue _ (hP.node _ _ (htaken _))) (hP.node _ _ (htaken _))
  | nodeDisable =>
    cases he
    exact ite_keeps (hrefused _ _ _) (ite_keeps (hP.result _ _ (hP.disableNode _ (htaken _))) (hrefused _ _ _))
  | nodeRemove =>
    cases he
    refine ite_keeps (hrefused _ _ _) (ite_keeps (hrefused _ _ _) (ite_keeps (hrefused _ _ _) ?_))
    exact hP.result _ _ (hP.node _ _ (hP.freeAllReporting _ (htaken _)))
  | submit =>
    cases he
    split
    · exact hrefused _ _ _
    · iterate 4 refine ite_keeps (hrefused _ _ _) ?_
      exact hP.result _ _ (hP.evaluate _ (hP.same h ⟨rfl, rfl, rfl⟩))
  | abort =>
    cases he
    split
    · exact hrefused _ _ _
    · split
      · exact hP.result _ _ (hP.abortWaiting _ (htaken _))
      · exact hP.same h ⟨rfl, rfl, rfl⟩
  | inhForce =>
    cases he
    split
    · exact hrefused _ _ _
    · exact hP.result _ _ (hP.report _ _ (htaken _))
  | inhClear =>
    cases he
    refine ite_keeps (hrefused _ _ _) (hP.result _ _ (hP.afterInhibit (hP.same h ?_)))
    exact (SameLines.inhSettle _ _).after ⟨rfl, rfl, rfl⟩
  | inhAck =>
    cases he
    exact ite_keeps (hP.result _ _ (hP.afterInhibit (hP.same h ⟨rfl, rfl, rfl⟩))) (hrefused _ _ _)
  | portEnable =>
    cases he
    split
    · exact hrefused _ _ _
    · exact ite_keeps (hrefused _ _ _) (hP.result _ _ (hP.enablePort _ (htaken _)))
  | portDisable =>
    cases he
    split
    · exact hrefused _ _ _
    · exact ite_keeps (hP.result _ _ (hP.stopPort _ _ (htaken _))) (hrefused _ _ _)
  | portReset =>
    cases he
    split
    · exact hrefused _ _ _
    · exact ite_keeps (hP.result _ _ (hP.resetPort _ (htaken _))) (hrefused _ _ _)
  | clearCounters =>
    cases he
    split
    · exact hrefused _ _ _
    · exact hP.result _ _ (foldl_keeps (fun _ p h => hP.counters p _ h) _ (htaken _))
  | inhmWrite v =>
    cases he
    exact hP.writeMask v h
  | registerWrite a v =>
    simp only [Machine.exec, execRegisterWrite] at he
    split at he
    · cases he
      exact hP.writeRegister _ _ h
    · cases he
  | frameReceived p os =>
    cases he
    exact ite_keeps (hP.frameClassified p _ (hP.agree h rfl rfl id)) h
  | grant p =>
    cases he
    exact hP.evaluate p h
  | transmitCompletion p =>
    cases he
    exact hP.transmitted p h
  | responseTimeoutExpiry p =>
    cases he
    exact hP.timedOut p h
  | quietIntervalExpiry p =>
    cases he
    exact hP.quietEnded p h
  | epochMark bs =>
    cases he
    split
    · exact h
    · exact hP.takeMarks bs (hP.boundary (hP.takeMarks _ h))
  | recordStale | holdExpiry | fallsDue | deadlineExpiry | crcWindowEnd | releaseCountdownEnd =>
    cases he
    exact hP.takeMark _ h
  | startDelimiter p =>
    cases he
    exact ite_keeps (hP.agree h rfl rfl id) h
  | _ => exact hP.same h (exec_sameLines rfl he)

end LinesKept

end Sys2Proof.Machine
end

section
/-! PROOF. The agreement of the ports with their sequencers, and what waits, as every step keeps them (R94, R158,
R192). -/

namespace Sys2Proof.Machine

/-! ### A poll cycle that is reported -/

/-- A change of one port's counters is one of the counters alone. -/
theorem State.port_modCounters (s : State) (p : Port) (f : PortCounters → PortCounters) (q : Port) :
    ∃ c, (s.modCounters p f).port q = { s.port q with counters := c } := by
  have hport : (s.modCounters p f).port q = _ := s.port_setPort p q _
  rw [hport]
  split
  · subst q
    exact ⟨_, rfl⟩
  · exact ⟨_, rfl⟩

/-- Port `p` reports a poll cycle that has ended: its transaction is discarded and it is not yet in QUIET, and the other
port is as it should be (R108, R109). -/
structure Reporting (p : Port) (s : State) : Prop where
  busy : (s.port p).isIdle = false
  free : (s.port p).transaction = none
  other : ∀ q, q ≠ p → (s.port q).Ok

/-- No arbiter acts on the port that reports, and the other is evaluated as ever. -/
theorem Reporting.calm (p : Port) : LinesCalm (Reporting p) where
  same h hlines := by
    obtain ⟨hbusy, hfree, hother⟩ := h
    exact ⟨hlines.port p ▸ hbusy, hlines.port p ▸ hfree, fun q hq => hlines.port q ▸ hother q hq⟩
  counters {s} q f h := by
    obtain ⟨hbusy, hfree, hother⟩ := h
    have hport := s.port_modCounters q f
    refine ⟨?_, ?_, fun q' hq' => ?_⟩
    · obtain ⟨c, hc⟩ := hport p
      rw [hc]
      exact hbusy
    · obtain ⟨c, hc⟩ := hport p
      rw [hc]
      exact hfree
    · obtain ⟨c, hc⟩ := hport q'
      rw [hc]
      exact (hother q' hq').of_agree rfl rfl id
  evaluate q h := by
    obtain ⟨hbusy, hfree, hother⟩ := h
    have hport := State.port_evaluate_of_busy hbusy q
    refine ⟨hport ▸ hbusy, hport ▸ hfree, fun q' hq' => ?_⟩
    by_cases hq : q' = q
    · subst q
      exact State.ok_evaluate (hother q' hq')
    · rw [State.port_evaluate_ne _ hq]
      exact hother q' hq'

/-- The transaction of an attempt that ended is discarded, whatever its silence did (R82, R108). -/
theorem PortsOk.reporting {s : State} {p : Port} (h : PortsOk s) (hbusy : (s.port p).isIdle = false) :
    Reporting p ((s.silenceUpdate p).dropTransaction p) := by
  obtain ⟨n, l, -, hsilence⟩ := s.silenceUpdate_lines p
  have hdropped := hsilence.again { (s.silenceUpdate p).port p with transaction := none }
  have hport : ∀ q, ((s.silenceUpdate p).dropTransaction p).port q = _ := hdropped.port
  refine ⟨?_, ?_, fun q hq => ?_⟩
  · rw [hport, State.port_setPort_same, hsilence.port, State.port_setPort_same]
    exact hbusy
  · rw [hport, State.port_setPort_same]
  · rw [hport, State.port_setPort, if_neg hq]
    exact h q

/-- Once the reporting port is in QUIET, both ports are as they should be. -/
theorem Reporting.enterQuiet {s : State} {p : Port} (h : Reporting p s) (a : Option Nat) :
    PortsOk (s.enterQuiet p a) := by
  intro q
  have hport : (s.enterQuiet p a).port q = _ := State.port_setPort s p q _
  rw [hport]
  split
  · exact PortState.ok_of_quiet rfl (fun t ht => by rw [show _ = none from h.free] at ht; cases ht) fun _ => h.free
  · exact h.other q ‹_›

theorem PortsOk.pollReplied {s : State} {p : Port} (h : PortsOk s) (hbusy : (s.port p).isIdle = false) (t : Transaction)
    (seq : Octet) (items : List Item) : PortsOk (s.pollReplied p t seq items) := by
  have hreporting := h.reporting hbusy
  unfold State.pollReplied
  refine Reporting.enterQuiet ?_ t.awaited
  split
  · exact ite_keeps ((Reporting.calm p).counters p _ hreporting) ((Reporting.calm p).nodeSuccess _ _ _ hreporting)
  · exact hreporting

/-! ### The two properties -/

theorem PortsOk.setPort {s : State} {p : Port} {x : PortState} (h : PortsOk s) (hx : (s.port p).Ok → x.Ok) :
    PortsOk (s.setPort p x) := fun q => by
  rw [State.port_setPort]
  split
  · exact hx (h p)
  · exact h q

/-- What every command can do to a port keeps both ports in agreement with their sequencers. -/
theorem PortsOk.kept : LinesKept PortsOk where
  same h hlines p := hlines.port p ▸ h p
  counters _ _ h := h.setPort fun hok => hok.of_agree rfl rfl id
  evaluate p h := portsOk_evaluate p h
  port h hx := h.setPort hx
  quietEnded p h := portsOk_quietEnded p h
  pollReplied t seq items h hbusy := h.pollReplied hbusy t seq items
  erase b h p := by cases p <;> [exact h .A; exact h .B]
  boundary h p := by cases p <;> [exact h .A; exact h .B]
  softReset h p := by cases p <;> [exact (h .A).softReset _; exact (h .B).softReset _]

/-- No block has one mark outstanding twice (entry 2). -/
def MarksOk (s : State) : Prop := s.marks.Nodup

theorem MarksOk.of_marks {s t : State} (h : MarksOk s) (ht : t.marks = s.marks) : MarksOk t := by
  rwa [MarksOk, ht]

theorem MarksOk.calm : LinesCalm MarksOk where
  same h hlines := h.of_marks hlines.marks
  counters p _ h := h.of_marks (State.modPort_marks _ p _)
  evaluate p h := h.of_marks (State.evaluate_marks _ p)

/-- Marks leave one by one, and a boundary makes one outstanding for each block. -/
theorem MarksOk.kept : LinesKept MarksOk where
  toLinesCalm := MarksOk.calm
  port h _ := h.of_marks (State.setPort_marks ..)
  quietEnded p h := by
    unfold State.quietEnded
    split
    · exact MarksOk.calm.evaluate p (h.of_marks (State.modPort_marks _ p _))
    all_goals exact h
  pollReplied {s p} t seq items h _ := by
    have hdropped : MarksOk ((s.silenceUpdate p).dropTransaction p) := by
      obtain ⟨n, l, -, hsilence⟩ := s.silenceUpdate_lines p
      exact (h.of_marks (State.setPort_marks ..)).of_marks ((State.modPort_marks _ p _).trans hsilence.marks)
    unfold State.pollReplied
    refine MarksOk.of_marks ?_ (State.modPort_marks _ p _)
    split
    · exact ite_keeps (MarksOk.calm.counters p _ hdropped) (MarksOk.calm.nodeSuccess _ _ _ hdropped)
    · exact hdropped
  erase b h := h.erase b
  boundary _ := (by decide : MarkBlock.all.Nodup)
  softReset _ := List.nodup_nil

/-! ### Steps -/

/-- Every step keeps the agreement of the ports: HARD_RESET sets them, and everything else keeps it (R94). -/
theorem PortsOk.step {s t : State} (h : PortsOk s) (he : Machine.step s = .next t) : PortsOk t := by
  unfold Machine.step at he
  split at he
  · cases he
    exact PortsOk.kept.idleStep h
  · rename_i c rest hpending
    have hleft : PortsOk { s with pending := rest } := PortsOk.kept.same h ⟨rfl, rfl, rfl⟩
    by_cases hc : c = .hardReset
    · subst c
      cases he
      obtain ⟨-, -, -, -, -, hports, -⟩ := hardReset_invariants { s with pending := rest }
      exact hports
    · exact PortsOk.kept.exec hc hleft he

/-- A part that is not held takes what waits; of a held part nothing but HARD_RESET is taken, and that ends the held
period (R192). -/
theorem WaitingOk.step {s t : State} (h : WaitingOk s) (he : Machine.step s = .next t) : WaitingOk t := by
  obtain ⟨hmarks, hwaits⟩ := h
  unfold Machine.step at he
  split at he
  · rename_i hpending
    cases he
    have hfree : s.held ≠ true := fun hheld => by
      have hhead := hwaits hheld
      rw [hpending] at hhead
      cases hhead
    obtain ⟨-, hheld, -⟩ := (hostIs_kept s.host s.held s.pending).idleStep ⟨rfl, rfl, rfl⟩
    exact ⟨MarksOk.kept.idleStep hmarks, fun x => absurd (hheld ▸ x) hfree⟩
  · rename_i c rest hpending
    by_cases hc : c = .hardReset
    · subst c
      cases he
      obtain ⟨-, -, -, -, -, -, hwaiting⟩ := hardReset_invariants { s with pending := rest }
      exact hwaiting
    · have hfree : s.held ≠ true := fun hheld => by
        have hhead := hwaits hheld
        rw [hpending] at hhead
        exact hc (Option.some.inj hhead)
      obtain ⟨-, hheld, -⟩ := exec_host hc he
      exact ⟨MarksOk.kept.exec hc (s := { s with pending := rest }) hmarks he, fun x => absurd (hheld ▸ x) hfree⟩

/-- Settles O59: the pool and the keys are closed under everything that a step can do, and so are the ports and the
marks but for HARD_RESET, which ends the held period. -/
theorem poolAndKeysInvariant : Obligations.PoolAndKeysInvariant :=
  ⟨fun _ _ => PoolOk.closed.step, fun _ _ => KeysOk.closed.step, fun _ _ => PortsOk.step, fun _ _ => WaitingOk.step⟩

end Sys2Proof.Machine
end

section
/-! PROOF. The epoch timer's registers as they are written and read (R157, R159, R160). -/

namespace Sys2Proof.Machine

/-- A period write puts its octet above the held one (R157). -/
theorem append_octet_eq (v low : Octet) : v ++ low = BitVec.ofNat 16 (v.toNat * 256 + low.toNat) := by
  have hor : v.toNat <<< 8 ||| low.toNat = v.toNat * 256 + low.toNat := by
    rw [← Nat.shiftLeft_add_eq_or_of_lt low.isLt, Nat.shiftLeft_eq]
  rw [← hor, ← BitVec.toNat_append, BitVec.ofNat_toNat, BitVec.setWidth_eq]

/-- A running timer keeps its period until the next boundary (R157). -/
theorem EpochTimer.periodWrite_of_running {t : EpochTimer} {n : Word16} (v : Word16) (h : t.period = some n) :
    t.periodWrite v = { t with pendingPeriod := some v } := by
  simp only [EpochTimer.periodWrite, h]

/-- A stopped timer starts with the period written, and a period of 0 leaves it stopped (R157, R159). -/
theorem EpochTimer.periodWrite_of_stopped {t : EpochTimer} (v : Word16) (h : t.period = none) :
    t.periodWrite v = if v = 0 then t else { t with period := some v, elapsed := 0 } := by
  simp only [EpochTimer.periodWrite, h]

/-- The four addresses from 1Ah on show the octets of the snapshot, lowest first (R160, R194). -/
theorem readRegister_snapshot (s : State) {k : Nat} (h : k < 4) :
    s.readRegister (BitVec.ofNat 7 (0x1A + k)) = s.epoch.snapshot.extractLsb' (8 * k) 8 := by
  have ha : (BitVec.ofNat 7 (0x1A + k)).toNat = 0x1A + k := toNat_addr (by omega)
  simp (disch := omega) only [State.readRegister, ha, if_neg, if_pos, Nat.add_sub_cancel_left]
  exact BitVec.eq_of_toNat_eq (by simp)

/-- A read away from 1Ah takes no snapshot (R160). -/
theorem spiRead_succ_of_ne {a : Addr} (h : a ≠ 0x1A) (n : Nat) (s : State) :
    spiRead a (n + 1) s = (s.readRegister a :: (spiRead (a + 1) n s).1, (spiRead (a + 1) n s).2) := by
  simp only [spiRead, if_neg h]

/-- The octets of EPC above its lowest, read on from any of them, are all of one snapshot and take none (R160). -/
theorem spiRead_snapshot_octets (s : State) {k : Nat} (n : Nat) (hk : 0 < k) (hn : k + n ≤ 4) :
    spiRead (BitVec.ofNat 7 (0x1A + k)) n s =
      ((List.range' k n).map fun i => s.epoch.snapshot.extractLsb' (8 * i) 8, s) := by
  induction n generalizing k with
  | zero => rfl
  | succ n ih =>
    have haddr : BitVec.ofNat 7 (0x1A + k) ≠ 0x1A := fun h => by
      have := congrArg BitVec.toNat h
      rw [toNat_addr (by omega)] at this
      exact absurd this (by simp; omega)
    have hnext : BitVec.ofNat 7 (0x1A + k) + 1 = BitVec.ofNat 7 (0x1A + (k + 1)) :=
      (BitVec.ofNat_add (0x1A + k) 1).symm
    rw [spiRead_succ_of_ne haddr, readRegister_snapshot s (by omega), hnext, ih (by omega) (by omega)]
    rfl

/-- A read that starts at 1Ah takes the snapshot, and every octet of it is read after that (R160). -/
theorem spiRead_succ_snapshot (n : Nat) (s : State) :
    spiRead 0x1A (n + 1) s =
      (s.takeSnapshot.readRegister 0x1A :: (spiRead 0x1B n s.takeSnapshot).1, (spiRead 0x1B n s.takeSnapshot).2) := rfl

/-- Settles O34: a running timer and a stopped one at a period write, and the snapshot that a read from 1Ah shows. -/
theorem epochTimerRegisters : Obligations.EpochTimerRegisters := by
  intro s v
  refine ⟨rfl, ?period, rfl, ?count⟩
  case period =>
    show Host.Outcome.next { s with epoch := s.epoch.periodWrite (v ++ s.epoch.heldLow) } = _
    rw [append_octet_eq]
    generalize BitVec.ofNat 16 (v.toNat * 256 + s.epoch.heldLow.toNat) = written
    cases hperiod : s.epoch.period with
    | some n =>
      rw [EpochTimer.periodWrite_of_running written hperiod]
    | none =>
      rw [EpochTimer.periodWrite_of_stopped written hperiod]
      by_cases hzero : written = 0
      · rw [if_pos hzero]
        exact congrArg Host.Outcome.next (if_pos hzero).symm
      · rw [if_neg hzero]
        exact congrArg Host.Outcome.next (if_neg hzero).symm
  case count =>
    have hlow : s.takeSnapshot.readRegister 0x1A = s.epoch.count.extractLsb' 0 8 :=
      readRegister_snapshot s.takeSnapshot (by decide : 0 < 4)
    have hupper := spiRead_snapshot_octets s.takeSnapshot (k := 1) 3 (by decide) (by decide)
    rw [spiRead_succ_snapshot, hlow]
    exact congrArg (fun read => (_ :: read.1, read.2)) hupper

end Sys2Proof.Machine
end

section
/-! PROOF. The boundary of an epoch, and the blocks' own rows (R52, R157, R158; entries 2 and 3). -/

namespace Sys2Proof.Machine

/-- Every block but the record access unit takes the mark by itself alone. -/
theorem State.takeMark_of_ne (s : State) {b : MarkBlock} (h : b ≠ .recordAccess) : s.takeMark b = s.deliver b :=
  if_neg h

/-- The record access unit's row lets the capture table go first (R52). -/
theorem State.takeMark_recordAccess_eq (s : State) :
    s.takeMark .recordAccess = (s.deliver .captureTable).deliver .recordAccess := if_pos rfl

/-- A block that has taken its only mark does nothing when it is asked again (entry 3). -/
theorem State.deliver_deliver {s : State} (h : s.marks.Nodup) (b : MarkBlock) : (s.deliver b).deliver b = s.deliver b :=
  State.deliver_of_notMem (by rw [State.deliver_marks]; exact h.not_mem_erase)

/-- A stopped timer has no boundary (R158). -/
theorem execEpochMark_of_stopped {s : State} (blocks : List MarkBlock) (h : s.epoch.period = none) :
    execEpochMark blocks s = .next s := by
  simp only [execEpochMark, h]

/-- A running timer's boundary, between the marks that were outstanding and those of the named blocks (R158). -/
theorem execEpochMark_of_running {s : State} {n : Word16} (blocks : List MarkBlock) (h : s.epoch.period = some n) :
    execEpochMark blocks s = .next (blocks.foldl State.takeMark (MarkBlock.all.foldl State.takeMark s).boundary) := by
  simp only [execEpochMark, h, State.takeMarks]

/-- Settles O46: EPOCH_MARK by the timer's state, and a block's row by the marks outstanding for it. -/
theorem epochBoundaryEmitsMark : Obligations.EpochBoundaryEmitsMark := by
  intro s blocks
  refine ⟨?mark, ?unmarked, ?accessUnmarked, ?accessAfterTable, rfl, rfl, rfl, rfl, fun _ => rfl, rfl⟩
  case mark =>
    show execEpochMark blocks s = _
    cases hperiod : s.epoch.period with
    | none => exact execEpochMark_of_stopped blocks hperiod
    | some n =>
      rw [execEpochMark_of_running blocks hperiod]
      generalize MarkBlock.all.foldl State.takeMark s = t
      rfl
  case unmarked =>
    intro b hb hne
    rw [State.takeMark_of_ne s hne, State.deliver_of_notMem hb]
  case accessUnmarked =>
    intro hc hr
    rw [State.takeMark_recordAccess_eq, State.deliver_of_notMem hc, State.deliver_of_notMem hr]
  case accessAfterTable =>
    intro _ hnodup
    rw [State.takeMark_of_ne s (b := .captureTable) (by decide), State.takeMark_recordAccess_eq,
      State.takeMark_recordAccess_eq, State.deliver_deliver hnodup]

end Sys2Proof.Machine
end

section
/-! PROOF. The inhibit unit obeys R170 through every step: its one rule keeps it, and nothing but the unit's own events
reaches it. -/

namespace Sys2Proof.Machine

/-! ### The unit's own events by its rule -/

/-- A report to a unit that obeys R170, with what a fall of INH starts (R165). -/
theorem State.report_eq {s : State} (h : InhibitOk s.inh) (c : Condition) (on : Bool) :
    s.report c on =
      afterInhibit s (s.inhSettled (if on then s.inh.active ||| c.bit else s.inh.active &&& ~~~c.bit) s.inh.mask) :=
  congrArg (afterInhibit s) (State.setCondition_eq_inhSettled h c on)

/-- Conditions that become inactive together are one change of the set (R168). -/
theorem State.clearConditions_eq {s : State} (h : InhibitOk s.inh) (set : Octet) :
    s.clearConditions set = afterInhibit s (s.inhSettled (s.inh.active &&& ~~~set) s.inh.mask) :=
  congrArg (afterInhibit s) (State.inhSettle_eq_inhSettled h (s.inh.newly_of_off set))

/-! ### What each event leaves of R170 -/

/-- A change of conditions and mask that names what becomes effective by it keeps R170. -/
theorem State.inhSettle_ok {s : State} (h : InhibitOk s.inh) {active mask newly : Octet}
    (hnewly : newly = active &&& mask &&& ~~~s.inh.effective) :
    InhibitOk (({ s with inh := { s.inh with active := active, mask := mask } } : State).inhSettle newly).inh := by
  rw [State.inhSettle_eq_inhSettled h hnewly]
  exact InhibitUnit.settled_ok h active mask s.epoch16

/-- Out of ASSERTED no condition is effective, so that the unit may go to CLEAR (R173, R174). -/
theorem InhibitOk.cleared {u : InhibitUnit} (h : InhibitOk u) (hstate : u.state ≠ .asserted) :
    InhibitOk { u with state := .clear } :=
  ⟨⟨nofun, fun heffective => absurd (h.asserted_iff.mpr heffective) hstate⟩, nofun⟩

/-- A countdown above 1 stays in its range when it falls by 1 (R173). -/
theorem InhibitOk.counted {u : InhibitUnit} {n : Nat} (h : InhibitOk u) (hstate : u.state = .releasing n) (hn : 1 < n) :
    InhibitOk { u with state := .releasing (n - 1) } := by
  refine ⟨⟨nofun, fun heffective => ?_⟩, fun m hm => ?_⟩
  · have hasserted := h.asserted_iff.mpr heffective
    rw [hstate] at hasserted
    cases hasserted
  · cases hm
    have := h.countdown n hstate
    omega

/-- The unit of a soft reset while no condition is masked: ASSERTED by STARTUP (R179). -/
theorem InhibitUnit.softReset_unmasked_ok (u : InhibitUnit) : InhibitOk { u.softReset with mask := 0xFF } := by
  have heffective : Condition.startup.bit &&& 0xFF ≠ 0 := by decide
  exact ⟨⟨fun _ => heffective, fun _ => rfl⟩, nofun⟩

/-- A soft reset settles as the mask that it keeps would, written over one that masks nothing (R179). -/
theorem State.softReset_ok (s : State) : InhibitOk (s.softResetBlocks.inhSettle 0).inh := by
  have hnewly : 0 = Condition.startup.bit &&& s.inh.mask &&& ~~~(Condition.startup.bit &&& 0xFF) := by
    generalize s.inh.mask = mask
    revert mask
    decide
  exact State.inhSettle_ok (s := { s.softResetBlocks with inh := { s.inh.softReset with mask := 0xFF } })
    s.inh.softReset_unmasked_ok hnewly

/-- What every step can do keeps R170: it leaves the unit alone, or is one of the unit's own events. -/
theorem inhibitOk_closed : Closed fun s => InhibitOk s.inh where
  rest h hc := by rwa [hc.inh]
  completeAll l st h _ := by rwa [foldl_complete]
  mapRequests _ h _ := h
  record h _ _ _ _ _ _ := h
  notify {s} r c h := by
    obtain ⟨rs, q, hnotify⟩ := s.notify_eq r c
    rwa [hnotify]
  condition c on h := State.setCondition_ok h c on
  allocate h _ _ _ _ _ := h
  reuse h _ _ _ _ _ _ := h
  free h _ := h
  pop h _ := by
    unfold State.clearQueued
    split <;> exact h
  hold h _ _ _ := by
    unfold State.takeHold
    split <;> exact h
  unhold h _ _ _ _ _ _ := h
  dropHold h _ := h
  ageHolds h := h
  ageRecords h := h
  submit h _ _ := h
  popCompletion h _ := h
  clearConditions {s} set h := State.inhSettle_ok h (s.inh.newly_of_off set)
  mask {s} v h := State.inhSettle_ok h (s.inh.newly_of_mask v)
  settings _ _ h := ⟨h.asserted_iff, h.countdown⟩
  release h hstate := h.cleared hstate
  countdown h hstate hn := h.counted hstate hn
  softReset {s} _ := s.softReset_ok
  hardReset _ := inhibitOk_reset
  leave h _ := h

/-- Settles O57: R170 is closed under everything that a step can do. -/
theorem inhibitUnitInvariant : Obligations.InhibitUnitInvariant := fun _ _ => inhibitOk_closed.step

end Sys2Proof.Machine
end

section
/-! PROOF. The statements of the inhibit unit's commands. -/

namespace Sys2Proof.Machine

/-- Settles O26: ARG0 by its range, and FORCE by the unit's rule. -/
theorem inhForceSetsForce : Obligations.InhForceSetsForce := by
  intro s h
  have hreport : ∀ on, (s.taken 0x48).report .force on =
      afterInhibit s (({ s with cmd := 0x48 } : State).inhSettled
        (if on then s.inh.active ||| 0x02 else s.inh.active &&& 0xFD) s.inh.mask) :=
    fun on => State.report_eq (s := s.taken 0x48) h .force on
  have hexec : exec .inhForce s = execInhForce s := rfl
  have harg : (s.taken 0x48).arg 0 = s.arg 0 := rfl
  rw [hexec, execInhForce, harg, yesNoOf_eq]
  by_cases hrange : (s.arg 0).toNat > 1
  · rw [if_pos hrange, if_pos hrange]
    rfl
  · have hone : s.arg 0 = 1 ↔ decide ((s.arg 0).toNat = 1) = true := by
      rw [decide_eq_true_iff]
      exact BitVec.toNat_inj.symm
    simp only [if_neg hrange, hreport, hone]
    rfl

/-- Settles O27: a set with another condition than the latched ones is refused, and else it is one change of the set. -/
theorem inhClearClearsLatched : Obligations.InhClearClearsLatched := by
  intro s h
  have hclear : (s.taken 0x49).clearConditions (s.arg 0) =
      afterInhibit s (({ s with cmd := 0x49 } : State).inhSettled (s.inh.active &&& ~~~s.arg 0) s.inh.mask) :=
    State.clearConditions_eq (s := s.taken 0x49) h (s.arg 0)
  have hexec : exec .inhClear s = execInhClear s := rfl
  have harg : (s.taken 0x49).arg 0 = s.arg 0 := rfl
  have hothers : ~~~latchedConditions = 0x3E := by decide
  rw [hexec, execInhClear, harg, hothers]
  by_cases hset : s.arg 0 &&& 0x3E ≠ 0
  · rw [if_pos hset, if_pos hset]
    rfl
  · rw [if_neg hset, if_neg hset, hclear]
    rfl

/-- Settles O28, by the state of the unit. -/
theorem inhAckReleases : Obligations.InhAckReleases := by
  intro s
  obtain ⟨u, k, rfl⟩ : ∃ (u : State) (k : InhibitState), s = { u with inh := { u.inh with state := k } } :=
    ⟨s, s.inh.state, rfl⟩
  cases k <;> rfl

end Sys2Proof.Machine
end

section
/-! PROOF. The event registers bit by bit, and IRQ (R181-R184, R195). -/

namespace Sys2Proof.Machine

/-! ### The octets of EVF and EVE -/

/-- The octet that holds flag `i` of EVF or EVE (R195). -/
def halfOf (i : Nat) : Half := if i < 8 then .low else .high

/-- The positions of an octet are those of the flags it holds (R195). -/
theorem getLsbD_halfMask (half : Half) {i : Nat} (hi : i < 9) :
    (halfMask half).getLsbD i = decide (half = halfOf i) := by
  revert i
  cases half <;> decide

/-- Flag `i` is written by its own octet alone, at its position in it (R182, R183, R195). -/
theorem getLsbD_halfBits (half : Half) (v : Octet) {i : Nat} (hi : i < 9) :
    (halfBits half v).getLsbD i = (decide (half = halfOf i) && v.getLsbD (i % 8)) := by
  rcases Nat.lt_succ_iff_lt_or_eq.mp hi with hlow | rfl
  · have hhalf : halfOf i = .low := if_pos hlow
    rw [Nat.mod_eq_of_lt hlow, hhalf]
    cases half with
    | low => simp [halfBits, hi]
    | high => simp [halfBits, hlow]
  · cases half with
    | low => simp [halfBits, halfOf]
    | high => simp [halfBits, halfOf]

/-- Every enable of the written octet takes the value written, and the other octet's stand (R183). -/
theorem getLsbD_written (old : BitVec 9) (half : Half) (v : Octet) {i : Nat} (hi : i < 9) :
    ((old &&& ~~~halfMask half) ||| halfBits half v).getLsbD i =
      if half = halfOf i then v.getLsbD (i % 8) else old.getLsbD i := by
  rw [BitVec.getLsbD_or, BitVec.getLsbD_and, BitVec.getLsbD_not, getLsbD_halfMask half hi, getLsbD_halfBits half v hi]
  by_cases hhalf : half = halfOf i
  · simp [hhalf]
  · simp [hhalf, hi]

/-! ### The flags -/

/-- The level flags are the two lowest, each set while its collection is non-empty (R181, R195). -/
theorem State.getLsbD_levelFlags (s : State) {i : Nat} (hi : i < 9) :
    s.levelFlags.getLsbD i =
      if i = 0 then !s.queue.isEmpty else if i = 1 then !s.completions.isEmpty else false := by
  unfold State.levelFlags
  revert i
  cases s.queue.isEmpty <;> cases s.completions.isEmpty <;> decide

/-- The flags as EVF gives them: two follow their collections, and the others are sticky (R180, R181, R195). -/
theorem State.getLsbD_flags (s : State) {i : Nat} (hi : i < 9) :
    s.flags.getLsbD i =
      if i = 0 then !s.queue.isEmpty else if i = 1 then !s.completions.isEmpty else s.sticky.getLsbD i := by
  have hsticky : ∀ j < 9, (0x1FC : BitVec 9).getLsbD j = decide (2 ≤ j) := by decide
  rw [State.flags, BitVec.getLsbD_or, BitVec.getLsbD_and, hsticky i hi, s.getLsbD_levelFlags hi]
  match i with
  | 0 | 1 | i + 2 => simp

/-- Sticky flags that are cleared go, and every other flag stands: a level flag follows its collection (R181, R182). -/
theorem State.getLsbD_flags_clear (s : State) (m : BitVec 9) {i : Nat} (hi : i < 9) :
    ({ s with sticky := s.sticky &&& ~~~m } : State).flags.getLsbD i =
      (s.flags.getLsbD i && !(decide (2 ≤ i) && m.getLsbD i)) := by
  rw [State.getLsbD_flags _ hi, State.getLsbD_flags s hi]
  match i with
  | 0 | 1 => simp
  | i + 2 => simp [hi]

/-- IRQ is asserted exactly while a set flag has its enable set (R184). -/
theorem State.irq_iff (s : State) :
    s.irq = true ↔ ∃ i < 9, s.flags.getLsbD i = true ∧ s.enables.getLsbD i = true := by
  rw [State.irq, decide_eq_true_iff]
  constructor
  · intro hne
    by_contra hnone
    refine hne (BitVec.eq_of_getLsbD_eq fun i hi => ?_)
    have hboth : ¬((s.flags.getLsbD i && s.enables.getLsbD i) = true) :=
      fun h => hnone ⟨i, hi, Bool.and_eq_true_iff.mp h⟩
    rw [BitVec.getLsbD_and, Bool.eq_false_of_not_eq_true hboth]
    exact BitVec.getLsbD_zero.symm
  · rintro ⟨i, _, hflag, henable⟩ hzero
    have hbit : (s.flags &&& s.enables).getLsbD i = true := by
      rw [BitVec.getLsbD_and, hflag, henable, Bool.and_self]
    simp [hzero] at hbit

/-! ### The statement -/

/-- Settles O33: the two writes by the bits of the written octet, IRQ and the level flags by the flags' own bits. -/
theorem eventRegistersByBit : Obligations.EventRegistersByBit := by
  intro s half v written
  refine ⟨⟨_, rfl, fun i hi => ?evf⟩, ⟨_, rfl, fun i hi => getLsbD_written s.enables half v hi⟩, s.irq_iff, ?change,
    ?completion⟩
  case evf =>
    rw [s.getLsbD_flags_clear _ hi, getLsbD_halfBits half v hi]
    rfl
  case change => rw [s.getLsbD_flags (by decide), if_pos rfl, Bool.not_eq_true', List.isEmpty_eq_false_iff]
  case completion =>
    rw [s.getLsbD_flags (by decide), if_neg one_ne_zero, if_pos rfl, Bool.not_eq_true', List.isEmpty_eq_false_iff]

end Sys2Proof.Machine
end

section
/-! PROOF. Which terms are commands of their row, and the statements of the commands as terms (R189-R191; entries 1
and 15). -/

namespace Sys2Proof.Machine

/-! ### The terms that are refused -/

/-- A term that the host cannot send, since what it would write is another row's (entry 15). -/
def OtherRowsTerm (c : Instr) : Prop :=
  (∃ code ∈ commandCodes, c = .badCommand code) ∨ ∃ a ∈ ownRowAddresses, ∃ v, c = .registerWrite a v

/-- A code that names no command, as the check of BAD_COMMAND reads it (R190). -/
theorem badCodeOk_iff {code : Octet} : badCodeOk code = true ↔ code ∉ commandCodes := by simp [badCodeOk]

/-- An address with no row of its own, as the check of REGISTER_WRITE reads it (R189). -/
theorem plainAddressOk_iff {a : Addr} : plainAddressOk a = true ↔ a ∉ ownRowAddresses := by simp [plainAddressOk]

theorem exec_badCommand (code : Octet) (s : State) : exec (.badCommand code) s = execBadCommand code s := rfl

theorem exec_registerWrite (a : Addr) (v : Octet) (s : State) :
    exec (.registerWrite a v) s = execRegisterWrite a v s := rfl

/-- A code that names no command has BAD_COMMAND's effect (R190). -/
theorem exec_badCommand_of_notMem {code : Octet} (h : code ∉ commandCodes) (s : State) :
    exec (.badCommand code) s = .next ((s.taken code).result .badCommand []) := by
  rw [exec_badCommand, execBadCommand, if_pos (badCodeOk_iff.mpr h)]

/-- BAD_COMMAND is no term for a code that names a command (entry 15). -/
theorem exec_badCommand_of_mem {code : Octet} (h : code ∈ commandCodes) (s : State) :
    exec (.badCommand code) s = .refused .notWellFormed := by
  rw [exec_badCommand, execBadCommand, if_neg fun hok => badCodeOk_iff.mp hok h]

/-- A plain address is written under its register's rule (R189). -/
theorem exec_registerWrite_of_notMem {a : Addr} (h : a ∉ ownRowAddresses) (v : Octet) (s : State) :
    exec (.registerWrite a v) s = .next (s.writeRegister a.toNat v) := by
  rw [exec_registerWrite, execRegisterWrite, if_pos (plainAddressOk_iff.mpr h)]

/-- REGISTER_WRITE is no term for an address with a row of its own (entry 15). -/
theorem exec_registerWrite_of_mem {a : Addr} (h : a ∈ ownRowAddresses) (v : Octet) (s : State) :
    exec (.registerWrite a v) s = .refused .notWellFormed := by
  rw [exec_registerWrite, execRegisterWrite, if_neg fun hok => plainAddressOk_iff.mp hok h]

/-- Every command but another row's term completes: every arm but those two answers a next state outright. -/
theorem exec_next_of_not_otherRowsTerm {c : Instr} (h : ¬OtherRowsTerm c) (s : State) : ∃ t, exec c s = .next t := by
  cases c with
  | badCommand code => exact ⟨_, exec_badCommand_of_notMem (fun hmem => h (.inl ⟨code, hmem, rfl⟩)) s⟩
  | registerWrite a v => exact ⟨_, exec_registerWrite_of_notMem (fun hmem => h (.inr ⟨a, hmem, v, rfl⟩)) v s⟩
  | _ => exact ⟨_, rfl⟩

/-- No well-formed command is another row's term. -/
theorem not_otherRowsTerm_of_wellFormed {c : Instr} (h : c.wellFormed = true) : ¬OtherRowsTerm c := by
  rintro (⟨code, hmem, rfl⟩ | ⟨a, hmem, v, rfl⟩)
  · exact badCodeOk_iff.mp h hmem
  · exact plainAddressOk_iff.mp h hmem

/-- Every well-formed command completes. -/
theorem exec_next_of_wellFormed {c : Instr} (h : c.wellFormed = true) (s : State) : ∃ t, exec c s = .next t :=
  exec_next_of_not_otherRowsTerm (not_otherRowsTerm_of_wellFormed h) s

/-! ### The statements of the commands as terms -/

/-- Settles O1: the queue's front is the command that `step` takes. -/
theorem stepRunsFrontCommand : Obligations.StepRunsFrontCommand := fun _ _ _ => rfl

/-- Settles O3: the two kinds of ill-formed term by their arms, and every other command by its own. -/
theorem onlyIllFormedTermsAreRefused : Obligations.OnlyIllFormedTermsAreRefused := by
  refine ⟨fun c s h => exec_next_of_wellFormed h s, fun code hmem s => exec_badCommand_of_mem hmem s,
    fun a hmem v s => exec_registerWrite_of_mem hmem v s, fun c s r hrefused => ?_⟩
  by_contra hterm
  obtain ⟨t, hnext⟩ := exec_next_of_not_otherRowsTerm hterm s
  rw [hnext] at hrefused
  cases hrefused

/-- Settles O7: the arm of BAD_COMMAND, whose six result octets are 0. -/
theorem badCommandRefused : Obligations.BadCommandRefused := fun _ s h => exec_badCommand_of_notMem h s

end Sys2Proof.Machine
end

section
/-! PROOF. What the codes and the addresses that the host writes ask for (R188-R190, R194). -/

namespace Sys2Proof.Machine

/-- A code that names no command asks for BAD_COMMAND (R190). -/
theorem commandOfCode_of_notMem {code : Octet} (h : code ∉ commandCodes) : commandOfCode code = .badCommand code := by
  simp only [commandCodes, List.mem_cons, List.not_mem_nil, or_false, not_or] at h
  simp only [commandOfCode, h, if_false]

/-- A code that names a command asks for a well-formed command that bears it (R194). -/
theorem commandOfCode_of_mem :
    ∀ code ∈ commandCodes, (commandOfCode code).wellFormed = true ∧ (commandOfCode code).cmdCode = some code := by
  decide

/-- Every code asks for a well-formed command that bears it (R190, R194). -/
theorem commandOfCode_bears (code : Octet) :
    (commandOfCode code).wellFormed = true ∧ (commandOfCode code).cmdCode = some code := by
  by_cases hmem : code ∈ commandCodes
  · exact commandOfCode_of_mem code hmem
  · rw [commandOfCode_of_notMem hmem]
    exact ⟨badCodeOk_iff.mpr hmem, rfl⟩

/-- A code asks for the one well-formed command that bears it (R190, R194). -/
theorem commandOfCode_of_cmdCode {c : Instr} {code : Octet} (hwf : c.wellFormed = true) (hcode : c.cmdCode = some code) :
    commandOfCode code = c := by
  cases c with
  | badCommand named =>
    cases hcode
    exact commandOfCode_of_notMem (badCodeOk_iff.mp hwf)
  | _ => cases hcode <;> rfl

/-- A write away from the addresses with rows of their own is a plain one (R189). -/
theorem hostWrite_of_notMem {a : Addr} (h : a ∉ ownRowAddresses) (v : Octet) : hostWrite a v = .registerWrite a v := by
  simp only [ownRowAddresses, List.mem_cons, List.not_mem_nil, or_false, not_or] at h
  simp only [hostWrite, h, if_false]

/-- No code asks for a hard reset (R192, R193). -/
theorem commandOfCode_ne_hardReset (code : Octet) : commandOfCode code ≠ .hardReset := by
  intro hreset
  have hbears := (commandOfCode_bears code).2
  rw [hreset] at hbears
  cases hbears

/-- Whatever the host writes, wherever, is a command of its row, and none is the reset by its pin (R189, R190, R192). -/
theorem hostWrite_sound (a : Addr) (v : Octet) : (hostWrite a v).wellFormed = true ∧ hostWrite a v ≠ .hardReset := by
  by_cases hmem : a ∈ ownRowAddresses
  · simp only [ownRowAddresses, List.mem_cons, List.not_mem_nil, or_false] at hmem
    rcases hmem with rfl | rfl | rfl | rfl | rfl | rfl | rfl | rfl
    · exact ⟨(commandOfCode_bears v).1, commandOfCode_ne_hardReset v⟩
    all_goals exact ⟨rfl, nofun⟩
  · rw [hostWrite_of_notMem hmem]
    exact ⟨plainAddressOk_iff.mpr hmem, nofun⟩

/-- The octet at position k of a write transaction is the write to the address k further on (R189). -/
theorem spiWrite_eq_mapIdx (a : Addr) (data : List Octet) :
    spiWrite a data = data.mapIdx fun k v => hostWrite (a + BitVec.ofNat 7 k) v := by
  induction data generalizing a with
  | nil => rfl
  | cons v vs ih =>
    have hnext : ∀ k, a + 1 + BitVec.ofNat 7 k = a + BitVec.ofNat 7 (k + 1) := fun k => by
      rw [BitVec.add_assoc, Nat.add_comm k 1, BitVec.ofNat_add]
      rfl
    rw [spiWrite, ih, List.mapIdx_cons]
    simp only [hnext, BitVec.add_zero]

/-- An address octet with bit 7 set starts a write at the address in its other bits (R188). -/
theorem getLsbD_writeOctet (a : Addr) : ((1 : BitVec 1) ++ a : BitVec 8).getLsbD 7 = true :=
  BitVec.getLsbD_append

/-- An address octet with bit 7 clear starts a read at the address in its other bits (R188). -/
theorem getLsbD_readOctet (a : Addr) : ((0 : BitVec 1) ++ a : BitVec 8).getLsbD 7 = false :=
  BitVec.getLsbD_append

/-- The address in an address octet (R188). -/
theorem truncate_addressOctet (b : BitVec 1) (a : Addr) : (b ++ a : BitVec 8).truncate 7 = a :=
  BitVec.setWidth_append_eq_right

end Sys2Proof.Machine
end

section
/-! PROOF. Transactions at the host port, bit by bit and octet by octet (R188-R190; entry 11). -/

namespace Sys2Proof.Machine

/-! ### What waits is taken first -/

/-- A command that completes leaves what waits behind it, and none holds the part (R192). -/
theorem exec_waiting {c : Instr} {s t : State} (hheld : s.held = false) (h : exec c s = .next t) :
    t.held = false ∧ t.pending = s.pending := by
  by_cases hreset : c = .hardReset
  · subst hreset
    cases h
    exact ⟨rfl, rfl⟩
  · obtain ⟨-, hh, hp⟩ := exec_host hreset h
    exact ⟨hh.trans hheld, hp⟩

/-- Once as many commands as wait have been taken, none waits, and the part is not held. -/
theorem takeWaiting_takes_all {s : State} (hheld : s.held = false) :
    (takeWaiting s.pending.length s).held = false ∧ (takeWaiting s.pending.length s).pending = [] := by
  generalize hwait : s.pending = waiting
  induction waiting generalizing s with
  | nil => exact ⟨hheld, hwait⟩
  | cons c rest ih =>
    have hstep : step s = exec c { s with pending := rest } := by rw [step, hwait]
    rw [List.length_cons, takeWaiting, hstep]
    split
    · rename_i t ht
      obtain ⟨hh, hp⟩ := exec_waiting (s := { s with pending := rest }) hheld ht
      exact ih hh hp
    all_goals
      rw [hwait]
      exact ih hheld rfl

/-- A part that is not held takes what waits. -/
theorem caughtUp_of_not_held {s : State} (h : s.held = false) : s.caughtUp = takeWaiting s.pending.length s :=
  if_neg (Bool.eq_false_iff.mp h)

/-- A part that has caught up has nothing to take. -/
theorem caughtUp_waitless (s : State) : s.caughtUp.held = true ∨ s.caughtUp.pending = [] := by
  cases hheld : s.held with
  | true => exact .inl (by rw [caughtUp_of_held hheld, hheld])
  | false =>
    rw [caughtUp_of_not_held hheld]
    exact .inr (takeWaiting_takes_all hheld).2

/-- Catching up again takes nothing more. -/
theorem caughtUp_caughtUp (s : State) : s.caughtUp.caughtUp = s.caughtUp := caughtUp_of_waitless (caughtUp_waitless s)

/-- A fall of CS# comes after what waits. -/
theorem csFalls_caughtUp (s : State) : s.csFalls = s.caughtUp.csFalls := by
  unfold State.csFalls
  rw [caughtUp_caughtUp]

/-- A bit clocked comes after what waits. -/
theorem clocked_caughtUp (s : State) (b : Bool) : s.clocked b = s.caughtUp.clocked b := by
  unfold State.clocked State.sckRises
  rw [caughtUp_caughtUp]

/-- A part that takes the command at the front of its queue has still to take what comes after it. -/
theorem caughtUp_cons {s t : State} {c : Instr} {rest : List Instr} (hs : s.held = false) (ht : t.held = false)
    (hwait : t.pending = rest) (h : exec c { s with pending := rest } = .next t) :
    ({ s with pending := c :: rest } : State).caughtUp = t.caughtUp := by
  have hstep : step { s with pending := c :: rest } = .next t := h
  rw [caughtUp_of_not_held (s := { s with pending := c :: rest }) hs, caughtUp_of_not_held ht, hwait, List.length_cons,
    takeWaiting, hstep]

/-! ### The two edges of a bit -/

/-- The block in a transaction at the phase `ph`, with SCK at a level and the bits `out` in the shifter. -/
def State.inTransaction (s : State) (sckHigh : Bool) (ph : SpiPhase) (out : List Bool) : State :=
  { s with host := { csHigh := false, sckHigh, phase := ph, out } }

/-- A state is in the transaction that its host port says. -/
theorem eq_inTransaction {s : State} {sckHigh : Bool} {ph : SpiPhase} {out : List Bool}
    (h : s.host = { csHigh := false, sckHigh, phase := ph, out }) : s = s.inTransaction sckHigh ph out := by
  rw [State.inTransaction, ← h]

/-- How many bits of the octet in progress have been sampled. -/
def SpiPhase.sampledBits : SpiPhase → Nat
  | .off => 0
  | .address got => got.length
  | .write _ got => got.length
  | .read _ got _ => got

/-- The phase after bits that do not complete their octet. -/
def SpiPhase.within (ph : SpiPhase) (bits : List Bool) : SpiPhase :=
  match ph with
  | .off => .off
  | .address got => .address (got ++ bits)
  | .write a got => .write a (got ++ bits)
  | .read a got count => .read a (got + bits.length) count

theorem SpiPhase.within_nil (ph : SpiPhase) : ph.within [] = ph := by
  cases ph <;> simp [SpiPhase.within]

theorem SpiPhase.within_within (ph : SpiPhase) (xs ys : List Bool) :
    (ph.within xs).within ys = ph.within (xs ++ ys) := by
  cases ph <;> simp [SpiPhase.within, Nat.add_assoc]

theorem SpiPhase.within_ne_off {ph : SpiPhase} (h : ph ≠ .off) (bits : List Bool) : ph.within bits ≠ .off := by
  cases ph with
  | off => exact absurd rfl h
  | _ => exact nofun

theorem SpiPhase.sampledBits_within {ph : SpiPhase} (h : ph ≠ .off) (bits : List Bool) :
    (ph.within bits).sampledBits = ph.sampledBits + bits.length := by
  cases ph with
  | off => exact absurd rfl h
  | read => rfl
  | _ => exact List.length_append

/-- In a transaction SDO shows the bit at the shifter's end (R188). -/
theorem sdo_inTransaction {s : State} (hheld : s.held = false) {ph : SpiPhase} (hph : ph ≠ .off) (sckHigh : Bool)
    (o : Bool) (out : List Bool) : (s.inTransaction sckHigh ph (o :: out)).sdo = some o := by
  simp [State.sdo, State.inTransaction, hheld, hph]

/-- With nothing waiting, a rise of SCK samples SDI (R188). -/
theorem sckRises_inTransaction {s : State} (hwait : s.pending = []) (ph : SpiPhase) (out : List Bool) (b : Bool) :
    (s.inTransaction false ph out).sckRises b = (s.inTransaction true ph out).sampled b := by
  unfold State.sckRises
  rw [caughtUp_of_empty (s := s.inTransaction false ph out) hwait]
  rfl

/-- With nothing waiting, a fall of SCK moves the shifter on (R188). -/
theorem sckFalls_inTransaction {s : State} (hwait : s.pending = []) (ph : SpiPhase) (out : List Bool) :
    (s.inTransaction true ph out).sckFalls = (s.inTransaction false ph out).shifted := by
  unfold State.sckFalls
  rw [caughtUp_of_empty (s := s.inTransaction true ph out) hwait]
  rfl

/-- With nothing waiting, a bit clocked is sampled before SDO changes (R188). -/
theorem clocked_inTransaction {s : State} (hwait : s.pending = []) (ph : SpiPhase) (out : List Bool) (b : Bool) :
    (s.inTransaction false ph out).clocked b = ((s.inTransaction true ph out).sampled b).sckFalls := by
  rw [State.clocked, sckRises_inTransaction hwait]

/-- The host port once a transaction ends (R188). -/
theorem csRises_inTransaction (s : State) (sckHigh : Bool) (ph : SpiPhase) (out : List Bool) :
    (s.inTransaction sckHigh ph out).csRises = { s with host := .reset } := rfl

/-- A bit that does not complete its octet is kept with the bits before it. -/
theorem sampled_within (s : State) {ph : SpiPhase} (hph : ph ≠ .off) (hbits : ph.sampledBits < 7) (sckHigh : Bool)
    (out : List Bool) (b : Bool) :
    (s.inTransaction sckHigh ph out).sampled b = s.inTransaction sckHigh (ph.within [b]) out := by
  cases ph with
  | off => exact absurd rfl hph
  | _ => exact if_neg hbits.ne

/-- Within an octet the shifter moves on by a bit. -/
theorem shifted_within (s : State) {ph : SpiPhase} (hbits : 0 < ph.sampledBits) (sckHigh : Bool) (out : List Bool) :
    (s.inTransaction sckHigh ph out).shifted = s.inTransaction sckHigh ph (out.drop 1) := by
  cases ph with
  | off => rfl
  | address => rfl
  | write a got =>
    cases got with
    | nil => exact absurd hbits (lt_irrefl 0)
    | cons => rfl
  | read a got count =>
    cases got with
    | zero => exact absurd hbits (lt_irrefl 0)
    | succ => rfl

/-- A bit clocked within an octet changes the port alone. -/
theorem clocked_within {s : State} (hwait : s.pending = []) {ph : SpiPhase} (hph : ph ≠ .off)
    (hbits : ph.sampledBits < 7) (out : List Bool) (b : Bool) :
    (s.inTransaction false ph out).clocked b = s.inTransaction false (ph.within [b]) (out.drop 1) := by
  have hsampled : 0 < (ph.within [b]).sampledBits := by
    rw [SpiPhase.sampledBits_within hph]
    exact Nat.succ_pos _
  rw [clocked_inTransaction hwait, sampled_within s hph hbits, sckFalls_inTransaction hwait,
    shifted_within s hsampled]

/-- Bits clocked within an octet show the first bits of the shifter, and change the port alone (R188). -/
theorem clockBits_within {s : State} (hheld : s.held = false) (hwait : s.pending = []) {ph : SpiPhase}
    (hph : ph ≠ .off) {out bits : List Bool} (hout : ph.sampledBits + out.length = 8)
    (hbits : bits.length < out.length) :
    clockBits bits (s.inTransaction false ph out) =
      ((out.take bits.length).map some, s.inTransaction false (ph.within bits) (out.drop bits.length)) := by
  induction bits generalizing ph out with
  | nil => simp [clockBits, ph.within_nil]
  | cons b bits ih =>
    obtain ⟨o, out, rfl⟩ : ∃ o rest, out = o :: rest := List.exists_cons_of_length_pos (by omega)
    simp only [List.length_cons] at hout hbits
    have hclocked := clocked_within hwait hph (out := o :: out) (by omega) b
    have hlater := ih (ph := ph.within [b]) (out := out) (ph.within_ne_off hph [b])
      (by rw [SpiPhase.sampledBits_within hph, List.length_singleton]; omega) (by omega)
    rw [SpiPhase.within_within] at hlater
    rw [clockBits, hclocked, sdo_inTransaction hheld hph]
    exact congrArg (fun run => (some o :: run.1, run.2)) hlater

/-! ### The eighth bit of an octet -/

/-- The first seven bits of an octet. -/
theorem length_take_seven (o : Octet) : ((bitsOf o).take 7).length = 7 := rfl

/-- The eighth bit sampled after the other seven makes the octet. -/
theorem octetOfBits_take_append (o : Octet) : octetOfBits ((bitsOf o).take 7 ++ [o.getLsbD 0]) = o :=
  octetOfBits_bitsOf o

/-- The eighth bit of an address octet says what the transaction is (R188). -/
theorem sampled_address (s : State) {got : List Bool} (hgot : got.length = 7) (sckHigh : Bool) (out : List Bool)
    (b : Bool) :
    (s.inTransaction sckHigh (.address got) out).sampled b =
      s.inTransaction sckHigh (.ofAddress (octetOfBits (got ++ [b])) s.epoch.count) out := if_pos hgot

/-- The eighth bit of an octet written completes its write (R189, R190). -/
theorem sampled_write (s : State) {got : List Bool} (hgot : got.length = 7) (sckHigh : Bool) (a : Addr)
    (out : List Bool) (b : Bool) :
    (s.inTransaction sckHigh (.write a got) out).sampled b =
      (s.inTransaction sckHigh (.write (a + 1) []) out).takeNow (hostWrite a (octetOfBits (got ++ [b]))) := if_pos hgot

/-- A whole octet clocked shows one whole octet more. -/
theorem take_octet_append (shown sent : Octet) (later clocked : List Bool) :
    (bitsOf shown ++ later).take (bitsOf sent ++ clocked).length = bitsOf shown ++ later.take clocked.length := by
  rw [List.length_append, length_bitsOf, ← length_bitsOf shown, List.take_length_add_append]

/-! ### Whole octets -/

section
variable {s : State} (hheld : s.held = false) (hwait : s.pending = [])
include hheld hwait

/-- A whole octet clocked shows the octet in the shifter, and comes to its eighth bit after the other seven. -/
theorem clockBits_octet {ph : SpiPhase} (hph : ph ≠ .off) (hstart : ph.sampledBits = 0) (o shown : Octet) :
    clockBits (bitsOf o) (s.inTransaction false ph (bitsOf shown)) =
      ((bitsOf shown).map some,
        (s.inTransaction false (ph.within ((bitsOf o).take 7)) [shown.getLsbD 0]).clocked (o.getLsbD 0)) := by
  have hseven := clockBits_within hheld hwait hph (out := bitsOf shown) (bits := (bitsOf o).take 7)
    (by rw [hstart, length_bitsOf]) (by simp)
  have hbits : bitsOf o = (bitsOf o).take 7 ++ [o.getLsbD 0] := rfl
  have hlast := sdo_inTransaction hheld (ph.within_ne_off hph ((bitsOf o).take 7)) false (shown.getLsbD 0) []
  rw [hbits, clockBits_append, hseven]
  exact congrArg (fun sdo => (((bitsOf shown).take 7).map some ++ [sdo], _)) hlast

/-- The address octet shows the status octet, and its bit 7 says what the transaction is (R188). -/
theorem clockBits_address (o shown : Octet) :
    clockBits (bitsOf o) (s.inTransaction false (.address []) (bitsOf shown)) =
      ((bitsOf shown).map some,
        (s.inTransaction false (.ofAddress o s.epoch.count) [shown.getLsbD 0]).shifted) := by
  have hphase : (SpiPhase.address []).within ((bitsOf o).take 7) = .address ((bitsOf o).take 7) := rfl
  rw [clockBits_octet hheld hwait (ph := .address []) nofun rfl, hphase, clocked_inTransaction hwait,
    sampled_address s (length_take_seven o), octetOfBits_take_append, sckFalls_inTransaction hwait]

/-- After the address octet of a write 00h is shifted out (R188). -/
theorem clockBits_writeAddress (a : Addr) (shown : Octet) :
    clockBits (bitsOf ((1 : BitVec 1) ++ a : BitVec 8)) (s.inTransaction false (.address []) (bitsOf shown)) =
      ((bitsOf shown).map some, s.inTransaction false (.write a []) (bitsOf 0)) := by
  rw [clockBits_address hheld hwait, SpiPhase.ofAddress, if_pos (getLsbD_writeOctet a), truncate_addressOctet]
  rfl

/-- A data octet of a write shows 00h, and is its command, taken when its eighth bit is sampled (R188, R190). -/
theorem clockBits_write {t : State} (a : Addr) (v : Octet)
    (hexec : exec (hostWrite a v) (s.inTransaction true (.write (a + 1) []) [false]) = .next t) :
    clockBits (bitsOf v) (s.inTransaction false (.write a []) (bitsOf 0)) =
      (List.replicate 8 (some false), t.inTransaction false (.write (a + 1) []) (bitsOf 0)) := by
  obtain ⟨-, hpin⟩ := hostWrite_sound a v
  obtain ⟨hhost, -, hpending⟩ := exec_host hpin hexec
  have htaken := takeNow_of_empty (s := s.inTransaction true (.write (a + 1) []) [false]) _ hheld hwait hexec
  have hphase : (SpiPhase.write a []).within ((bitsOf v).take 7) = .write a ((bitsOf v).take 7) := rfl
  have hlast : (0 : Octet).getLsbD 0 = false := rfl
  rw [clockBits_octet hheld hwait (ph := .write a []) nofun rfl, hphase, hlast, clocked_inTransaction hwait,
    sampled_write s (length_take_seven v), octetOfBits_take_append, htaken, eq_inTransaction hhost,
    sckFalls_inTransaction (hpending.trans hwait)]
  rfl

end

/-! ### Reads -/

/-- The block once an octet read at `a` is complete: 1Ah leaves the count in the snapshot (R160). -/
def State.readPast (s : State) (a : Addr) : State := if a = 0x1A then s.takeSnapshot else s

/-- The block in a read transaction at the beginning of the octet at `a`. -/
def State.reading (s : State) (a : Addr) : State :=
  s.inTransaction false (.read a 0 s.epoch.count) (bitsOf ((s.readPast a).readRegister a))

/-- An octet of a read is that of the window once a snapshot at its address is taken, and the next one follows. -/
theorem spiRead_succ (a : Addr) (n : Nat) (s : State) :
    spiRead a (n + 1) s =
      ((s.readPast a).readRegister a :: (spiRead (a + 1) n (s.readPast a)).1, (spiRead (a + 1) n (s.readPast a)).2) := rfl

/-- A read changes the snapshot at most. -/
theorem readPast_eq (s : State) (a : Addr) :
    ∃ count, s.readPast a = { s with epoch := { s.epoch with snapshot := count } } := by
  unfold State.readPast
  split
  · exact ⟨s.epoch.count, rfl⟩
  · exact ⟨s.epoch.snapshot, rfl⟩

/-- An octet read is taken from the window when its first bit leaves the part (R188). -/
theorem shifted_read (s : State) (a : Addr) (count : Word32) (out : List Bool) :
    (s.inTransaction false (.read a 0 count) out).shifted = s.reading a := by
  by_cases ha : a = 0x1A
  · subst ha
    rfl
  · simp only [State.reading, State.readPast, State.shifted, State.inTransaction, if_neg ha]
    rfl

/-- The eighth bit of an octet read completes it (R160, R189). -/
theorem sampled_read (s : State) (a : Addr) (out : List Bool) (b : Bool) :
    (s.inTransaction true (.read a 7 s.epoch.count) out).sampled b =
      (s.readPast a).inTransaction true (.read (a + 1) 0 s.epoch.count) out := by
  by_cases ha : a = 0x1A
  · subst ha
    rfl
  · simp only [State.readPast, State.sampled, State.octetRead, State.inTransaction, if_neg ha, if_pos]

section
variable {s : State} (hheld : s.held = false) (hwait : s.pending = [])
include hheld hwait

/-- After the address octet of a read the octet at its address is shifted out (R188). -/
theorem clockBits_readAddress (a : Addr) (shown : Octet) :
    clockBits (bitsOf ((0 : BitVec 1) ++ a : BitVec 8)) (s.inTransaction false (.address []) (bitsOf shown)) =
      ((bitsOf shown).map some, s.reading a) := by
  have hread : ¬((0 : BitVec 1) ++ a : BitVec 8).getLsbD 7 = true := Bool.eq_false_iff.mp (getLsbD_readOctet a)
  rw [clockBits_address hheld hwait, SpiPhase.ofAddress, if_neg hread, truncate_addressOctet, shifted_read]

/-- A data octet of a read shows the octet at its address, and the next address follows (R188, R189). -/
theorem clockBits_read (a : Addr) (o : Octet) :
    clockBits (bitsOf o) (s.reading a) =
      ((bitsOf ((s.readPast a).readRegister a)).map some, (s.readPast a).reading (a + 1)) := by
  obtain ⟨count, hpast⟩ := readPast_eq s a
  have hphase : (SpiPhase.read a 0 s.epoch.count).within ((bitsOf o).take 7) = .read a 7 s.epoch.count := rfl
  rw [State.reading, clockBits_octet hheld hwait (ph := .read a 0 s.epoch.count) nofun rfl, hphase,
    clocked_inTransaction hwait, sampled_read, sckFalls_inTransaction (by rw [hpast]; exact hwait), shifted_read]

/-- The data octets of a read and the bits of one cut short show the window's octets, and only whole octets count
(R188, R189). -/
theorem clockBits_reads (a : Addr) (data : List Octet) {cut : List Bool} (hcut : cut.length < 8) :
    (clockBits (data.flatMap bitsOf ++ cut) (s.reading a)).1 =
        (((spiRead a (data.length + 1) s).1.flatMap bitsOf).take (data.flatMap bitsOf ++ cut).length).map some ∧
      (clockBits (data.flatMap bitsOf ++ cut) (s.reading a)).2.csRises =
        { (spiRead a data.length s).2 with host := .reset } := by
  induction data generalizing s a with
  | nil =>
    have hwithin := clockBits_within hheld hwait (ph := .read a 0 s.epoch.count) nofun
      (out := bitsOf ((s.readPast a).readRegister a)) (bits := cut) (by simp [SpiPhase.sampledBits]) (by simpa)
    rw [List.flatMap_nil, List.nil_append, State.reading, hwithin, spiRead_succ, List.flatMap_cons,
      List.take_append_of_le_length (by rw [length_bitsOf]; omega)]
    exact ⟨rfl, rfl⟩
  | cons o data ih =>
    obtain ⟨count, hpast⟩ := readPast_eq s a
    obtain ⟨hshown, hleft⟩ := ih (s := s.readPast a) (by rw [hpast]; exact hheld) (by rw [hpast]; exact hwait) (a + 1)
    rw [List.flatMap_cons, List.append_assoc, clockBits_append, clockBits_read hheld hwait, spiRead_succ,
      List.length_cons, spiRead_succ a data.length, List.flatMap_cons]
    refine ⟨?_, hleft⟩
    rw [take_octet_append, List.map_append, ← hshown]

/-! ### Whole transactions -/

/-- A fall of CS# begins the address octet, and takes the status octet (R188). -/
theorem csFalls_of_high (hhigh : s.host.csHigh = true) :
    s.csFalls = s.inTransaction false (.address []) (bitsOf s.statusOctet) := by
  unfold State.csFalls
  rw [caughtUp_of_empty hwait]
  simp [hhigh, hheld, State.inTransaction]

/-- A transaction cut within its address octet shows the status octet's first bits and does nothing (R188). -/
theorem spiTransaction_cut (hhigh : s.host.csHigh = true) {cut : List Bool} (hcut : cut.length < 8) :
    spiTransaction cut s = (((bitsOf s.statusOctet).take cut.length).map some, { s with host := .reset }) := by
  rw [spiTransaction, csFalls_of_high hheld hwait hhigh,
    clockBits_within hheld hwait (ph := .address []) nofun (by simp [SpiPhase.sampledBits]) (by simpa),
    csRises_inTransaction]

/-- A read transaction shows the status octet and then the window's octets (R188, R189). -/
theorem spiTransaction_read (hhigh : s.host.csHigh = true) (a : Addr) (data : List Octet) {cut : List Bool}
    (hcut : cut.length < 8) :
    let clocked := (((0 : BitVec 1) ++ a : BitVec 8) :: data).flatMap bitsOf ++ cut
    spiTransaction clocked s =
      ((((s.statusOctet :: (spiRead a (data.length + 1) s).1).flatMap bitsOf).take clocked.length).map some,
        { (spiRead a data.length s).2 with host := .reset }) := by
  intro clocked
  obtain ⟨hshown, hleft⟩ := clockBits_reads hheld hwait a data hcut
  have hclocked : clocked = bitsOf ((0 : BitVec 1) ++ a : BitVec 8) ++ (data.flatMap bitsOf ++ cut) := by
    rw [← List.append_assoc, ← List.flatMap_cons]
  rw [spiTransaction, hclocked, csFalls_of_high hheld hwait hhigh, clockBits_append,
    clockBits_readAddress hheld hwait, hshown, hleft, List.flatMap_cons, take_octet_append, List.map_append]

end

end Sys2Proof.Machine
end

section
/-! PROOF. The statement of the host port. -/

namespace Sys2Proof.Machine

/-- Settles O4: the codes and addresses of a write, then the edges, octet by octet from the fall of CS# to its rise. -/
theorem spiWritesAreCommands : Obligations.SpiWritesAreCommands := by
  unfold Obligations.SpiWritesAreCommands
  intro bits atRest
  refine ⟨fun c code hwf hcode => commandOfCode_of_cmdCode hwf hcode, commandOfCode_bears,
    fun v => ⟨rfl, rfl, rfl, rfl, rfl, rfl, rfl⟩, fun a v hplain => hostWrite_of_notMem hplain v, ?octets,
    fun s hoff => if_pos (hoff.imp_right .inl), fun s b => ⟨csFalls_caughtUp s, clocked_caughtUp s b⟩,
    fun s t c rest hs ht hwait hexec => caughtUp_cons hs ht hwait hexec, fun s => caughtUp_of_waitless, ?write,
    fun s cut hheld hwait hcut => ⟨fun a hhost => ?discarded, fun hhigh =>
      ⟨spiTransaction_cut hheld hwait hhigh hcut, fun a data =>
        ⟨?begun, spiTransaction_read hheld hwait hhigh a data hcut⟩⟩⟩⟩
  case octets =>
    intro a data
    rw [spiCommands, if_pos (getLsbD_writeOctet a), truncate_addressOctet, spiWrite_eq_mapIdx]
  case write =>
    intro s a v hheld hwait hhost next
    obtain ⟨hwf, hpin⟩ := hostWrite_sound a v
    obtain ⟨t, hexec⟩ := exec_next_of_wellFormed hwf { s with host := next }
    obtain ⟨-, hh, hp⟩ := exec_host hpin hexec
    refine ⟨t, hexec, ?_, hh.trans hheld, hp.trans hwait⟩
    rw [eq_inTransaction hhost]
    exact clockBits_write hheld hwait a v hexec
  case discarded =>
    have hwithin := clockBits_within hheld hwait (ph := .write a []) nofun (out := bitsOf 0) (bits := cut) rfl hcut
    rw [eq_inTransaction hhost]
    exact congrArg (fun run => run.2.csRises) hwithin
  case begun =>
    rw [csFalls_of_high hheld hwait hhigh]
    exact clockBits_writeAddress hheld hwait a s.statusOctet

end Sys2Proof.Machine
end
